-- ==== Sys2Proof/Word.lean ====
section
/-! DEFINITION. The words of RC5CORE (spec 00_scope R10): a W-bit word, a byte, a 64-bit register value. -/

namespace Sys2Proof

/-- A W-bit word (R10). Its `+` and `-` are R11's, modulo 2^W, carry and borrow discarded. -/
abbrev Word (w : Nat) := BitVec w

/-- A key byte (10_state R51). -/
abbrev Byte := BitVec 8

/-- A register value or a command word on the host's 64-bit port (10_state R32, 30_encoding R100). -/
abbrev Reg64 := BitVec 64

end Sys2Proof
end

