-- ==== Sys2Proof/Syntax.lean ====
section
/-! DEFINITION. The seven commands of RC5CORE (30_encoding R105), one constructor per row of spec/opcode_table.json. -/

namespace Sys2Proof

/-- A command. Operands are the numbers R103 reads from IMM16; `Instr.wellFormed` bounds them. -/
inductive Instr where
  /-- NOP (43_control R210). -/
  | nop
  /-- SET_ROUNDS n (40_key_schedule R131): `n = zext(IMM16)`. -/
  | setRounds (n : Nat)
  /-- CLEAR_KEY (R132). -/
  | clearKey
  /-- PUSH_KEY b (R133): `b = IMM16[7:0]`. -/
  | pushKey (b : Nat)
  /-- EXPAND_KEY (R134). -/
  | expandKey
  /-- ENCRYPT (41_encrypt R170). -/
  | encrypt
  /-- DECRYPT (42_decrypt R190). -/
  | decrypt
deriving DecidableEq, Repr

end Sys2Proof
end

