-- ==== Sys2Proof/WellFormed.lean ====
section
/-! DEFINITION. Which commands have an encoding (30_encoding R103, R109). -/

namespace Sys2Proof

/-- R109: "An assembler rejects `SET_ROUNDS` with n > 65535 and `PUSH_KEY` with b > 255, since they have no
encoding." SET_ROUNDS with R_MAX < n <= 65535 is well formed; the core answers it with ERR_RANGE. -/
def Instr.wellFormed (i : Instr) : Bool :=
  match i with
  | .nop => true
  | .setRounds n => decide (n ≤ 65535)
  | .clearKey => true
  | .pushKey b => decide (b ≤ 255)
  | .expandKey => true
  | .encrypt => true
  | .decrypt => true

end Sys2Proof
end

