-- ==== Sys2Proof/Decode.lean ====
section
/-! DEFINITION. The command encoding (30_encoding R100 to R108): fields, the total decoder, the encoder, the opcode map. -/

namespace Sys2Proof

/-- R102: `OPC = v[7:0]`. -/
def opcField (v : Reg64) : BitVec 8 := v.extractLsb' 0 8

/-- R102: `RSV0 = v[15:8]`. -/
def rsv0Field (v : Reg64) : BitVec 8 := v.extractLsb' 8 8

/-- R102: `IMM16 = v[31:16]`. -/
def imm16Field (v : Reg64) : BitVec 16 := v.extractLsb' 16 16

/-- R102: `RSV1 = v[63:32]`. -/
def rsv1Field (v : Reg64) : BitVec 32 := v.extractLsb' 32 32

/-- R103: the key byte of PUSH_KEY, `IMM16[7:0]`. -/
def immLow (imm : BitVec 16) : BitVec 8 := imm.extractLsb' 0 8

/-- R103: `IMM16[15:8]`, which PUSH_KEY requires to be 0. -/
def immHigh (imm : BitVec 16) : BitVec 8 := imm.extractLsb' 8 8

/-- Why a word is illegal (R104, R107). The core makes no difference between them: each gives ERR_ILLEGAL. -/
inductive Illegal where
  /-- Non-zero RSV0 or RSV1 (R104). -/
  | reservedBits
  /-- A non-zero IMM16, or IMM16[15:8] for PUSH_KEY, where the opcode takes none (R103). -/
  | immediate
  /-- Opcodes 0x07 to 0xFF (R107). -/
  | reservedOpcode
deriving DecidableEq, Repr

/-- What a 64-bit word decodes to: a command, or `Illegal` with its reason (R106). -/
inductive Decoded where
  | cmd (i : Instr)
  | illegal (why : Illegal)
deriving DecidableEq, Repr

/-- R103: "Every other command requires `IMM16 = 0`". -/
def decodePlain (imm : BitVec 16) (i : Instr) : Decoded :=
  if imm = 0 then .cmd i else .illegal .immediate

/-- R106's `case v[7:0] of`, by the opcode's number. -/
def decodeOpcode (opc : Nat) (imm : BitVec 16) : Decoded :=
  match opc with
  | 0 => decodePlain imm .nop
  | 1 => .cmd (.setRounds imm.toNat)
  | 2 => decodePlain imm .clearKey
  | 3 => if immHigh imm = 0 then .cmd (.pushKey (immLow imm).toNat) else .illegal .immediate
  | 4 => decodePlain imm .expandKey
  | 5 => decodePlain imm .encrypt
  | 6 => decodePlain imm .decrypt
  | _ => .illegal .reservedOpcode

/-- R106: decode is a total function from 64-bit words to a command or `Illegal`. -/
def decode (v : Reg64) : Decoded :=
  if rsv0Field v ≠ 0 ∨ rsv1Field v ≠ 0 then .illegal .reservedBits
  else decodeOpcode (opcField v).toNat (imm16Field v)

/-- R101, R109: the word with the given OPC and IMM16 and with RSV0 = RSV1 = 0, `IMM16 << 16 or OPC`. -/
def assembleWord (opc : BitVec 8) (imm : BitVec 16) : Reg64 :=
  (imm.setWidth 64 <<< 16) ||| opc.setWidth 64

/-- The opcode of a command (R105). -/
def Instr.opcode (i : Instr) : BitVec 8 :=
  match i with
  | .nop => 0x00
  | .setRounds _ => 0x01
  | .clearKey => 0x02
  | .pushKey _ => 0x03
  | .expandKey => 0x04
  | .encrypt => 0x05
  | .decrypt => 0x06

/-- The immediate operand of a command (R103, R109): `n` for SET_ROUNDS, `b` for PUSH_KEY, else 0. -/
def Instr.immediate (i : Instr) : BitVec 16 :=
  match i with
  | .nop => 0
  | .setRounds n => BitVec.ofNat 16 n
  | .clearKey => 0
  | .pushKey b => BitVec.ofNat 16 b
  | .expandKey => 0
  | .encrypt => 0
  | .decrypt => 0

/-- The word of a well-formed command (R101, R105, R109). -/
def encode (i : Instr) : Reg64 := assembleWord i.opcode i.immediate

/-- A row of the opcode map (R105). -/
structure OpcodeRow where
  mask : Reg64
  pattern : Reg64
deriving DecidableEq, Repr

/-- R105: the row of a command's mnemonic. -/
def Instr.row (i : Instr) : OpcodeRow :=
  match i with
  | .nop => ⟨0xFFFFFFFFFFFFFFFF, 0x0000000000000000⟩
  | .setRounds _ => ⟨0xFFFFFFFF0000FFFF, 0x0000000000000001⟩
  | .clearKey => ⟨0xFFFFFFFFFFFFFFFF, 0x0000000000000002⟩
  | .pushKey _ => ⟨0xFFFFFFFFFF00FFFF, 0x0000000000000003⟩
  | .expandKey => ⟨0xFFFFFFFFFFFFFFFF, 0x0000000000000004⟩
  | .encrypt => ⟨0xFFFFFFFFFFFFFFFF, 0x0000000000000005⟩
  | .decrypt => ⟨0xFFFFFFFFFFFFFFFF, 0x0000000000000006⟩

/-- R105: the opcode map, its seven rows in the table's order. -/
def opcodeMap : List OpcodeRow :=
  [Instr.nop.row, (Instr.setRounds 0).row, Instr.clearKey.row, (Instr.pushKey 0).row,
   Instr.expandKey.row, Instr.encrypt.row, Instr.decrypt.row]

/-- R105: `(v and mask) = match` for this row. -/
def OpcodeRow.covers (r : OpcodeRow) (v : Reg64) : Bool := (v &&& r.mask) == r.pattern

/-- The command word whose bits are `w`, numbered as spec/opcode_table.json numbers them: `nbits` bits of it, every
higher bit 0. -/
def tableWord (nbits w : Nat) : Reg64 := BitVec.ofNat 64 (w % 2 ^ nbits)

/-- What the decoder reads from the table's word `w` of `nbits` bits. -/
def decodeTableWord (nbits w : Nat) : Option Instr :=
  match decode (tableWord nbits w) with
  | .cmd i => some i
  | .illegal _ => none

end Sys2Proof
end

