-- ==== Sys2Proof/Config.lean ====
section
/-! DEFINITION. The configuration record of an instance (00_scope R7) and the values the spec leaves free. -/

namespace Sys2Proof

/-- EMPTY_KEY_POLICY (40_key_schedule R153). -/
inductive EmptyKeyPolicy where
  /-- `ZERO_WORD`: the empty key packs to one zero word. -/
  | zeroWord
  /-- `REJECT`: EXPAND_KEY with KEYLEN = 0 gives ERR_EMPTY_KEY. -/
  | reject
deriving DecidableEq, Repr

/-- R7: the configuration record, fixed for the life of an instance. `Params.legal` says which are legal (R9). The derived
parameters u, T_MAX and C_MAX are computed (Machine/Parameters.lean). -/
structure Params where
  /-- W. -/
  width : Nat
  /-- P_W: "any W-bit words". -/
  magicP : Word width
  /-- Q_W. -/
  magicQ : Word width
  /-- R_MAX. -/
  rMax : Nat
  /-- B_MAX. -/
  bMax : Nat
  /-- EMPTY_KEY_POLICY. -/
  emptyKey : EmptyKeyPolicy
  /-- BASE_ADDR, OPEN (20_memory R73). -/
  baseAddr : Nat
  /-- REG_STRIDE, OPEN (20_memory R73). -/
  regStride : Nat
deriving DecidableEq, Repr

namespace Config

/-- FREE VALUE (10_state R57, 93 U5): byte `i` of KEYBUF as reset number `draw` left it. Log 4. -/
opaque freeKeyByte (draw i : Nat) : Byte

/-- FREE VALUE (10_state R57, 93 U5): word `i` of S as reset number `draw` left it. Log 4. -/
opaque freeTableWord (w draw i : Nat) : Word w

/-- FREE VALUE (20_memory R76, 93 U4): what a DATA_A or DATA_B read returns while BUSY = 1, at draw number `draw`. Log 5. -/
opaque freeDataRead (draw : Nat) : Reg64

/-- BUS_LANE_ORDER, OPEN (20_memory R72): the byte lane that carries byte `k` of a register value. The core defines no
byte lanes; no rule of the core reads it. Log 9. -/
opaque busLane (k : Nat) : Nat

/-- IRQ_LINE, OPEN (60_exceptions R231): the interrupt-controller input that `irq` drives. Log 9. -/
opaque irqLine : Nat

/-- PORT_ACCESS_POLICY, OPEN (60_exceptions R236): which bus masters may reach the port. Access control belongs to the
platform; no rule of the core reads it. Log 9. -/
opaque portAccess (master : Nat) : Bool

/-- LATENCY(cmd), OPEN (70_reset R275): cycles from acceptance to completion. "A model does not use it". Log 9. -/
opaque latency (cmd : Reg64) : Nat

end Config

end Sys2Proof
end

