-- ==== Sys2Proof/Machine/Parameters.lean ====
section
/-! DEFINITION. Legal configurations, derived parameters and the decided defaults (00_scope R7, R8, R9). -/

namespace Sys2Proof

/-- R7: `u = W/8`, the bytes of a word. -/
def Params.bytesPerWord (p : Params) : Nat := p.width / 8

/-- R7: `T_MAX = 2*(R_MAX+1)`. -/
def Params.tMax (p : Params) : Nat := 2 * (p.rMax + 1)

/-- R7: `C_MAX = max(1, ceil(B_MAX/u))`. -/
def Params.cMax (p : Params) : Nat := max 1 ((p.bMax + p.bytesPerWord - 1) / p.bytesPerWord)

/-- R9: "A model refuses a configuration with `W` outside 16, 32, 64, `R_MAX > 65535`, `B_MAX = 0` or
`B_MAX > 65535`." -/
def Params.legal (p : Params) : Bool :=
  (p.width == 16 || p.width == 32 || p.width == 64)
    && decide (p.rMax ≤ 65535) && decide (1 ≤ p.bMax) && decide (p.bMax ≤ 65535)

/-- R8: the default P_W. The 32-bit literal is PRESUMED (general knowledge, 93 G1, log 2). -/
def defaultP (w : Nat) : Word w := if w = 32 then BitVec.ofNat w 0xB7E15163 else 0

/-- R8: the default Q_W. The 32-bit literal is PRESUMED (general knowledge, 93 G1, log 2). -/
def defaultQ (w : Nat) : Word w := if w = 32 then BitVec.ofNat w 0x9E3779B9 else 0

/-- R8: P_W under `MAGIC = CANONICAL`. PRESUMED (general knowledge, 93 G2, log 2). -/
def canonicalP (w : Nat) : Word w :=
  if w = 16 then BitVec.ofNat w 0xB7E1
  else if w = 32 then BitVec.ofNat w 0xB7E15163
  else BitVec.ofNat w 0xB7E151628AED2A6B

/-- R8: Q_W under `MAGIC = CANONICAL`. PRESUMED (general knowledge, 93 G2, log 2). -/
def canonicalQ (w : Nat) : Word w :=
  if w = 16 then BitVec.ofNat w 0x9E37
  else if w = 32 then BitVec.ofNat w 0x9E3779B9
  else BitVec.ofNat w 0x9E3779B97F4A7C15

/-- The instance of width `w` with R7's and R8's defaults. BASE_ADDR = 0 and REG_STRIDE = 8 are a DESIGN CHOICE (log 1). -/
def Params.default (w : Nat) : Params :=
  { width := w, magicP := defaultP w, magicQ := defaultQ w, rMax := 255, bMax := 255, emptyKey := .zeroWord,
    baseAddr := 0, regStride := 8 }

/-- The instance of width `w` with `MAGIC = CANONICAL` (R8) and the other defaults. -/
def Params.canonical (w : Nat) : Params :=
  { width := w, magicP := canonicalP w, magicQ := canonicalQ w, rMax := 255, bMax := 255, emptyKey := .zeroWord,
    baseAddr := 0, regStride := 8 }

/-- R73: the bus address of register index `n`. -/
def Params.registerAddress (p : Params) (n : Nat) : Nat := p.baseAddr + p.regStride * n

/-- R73, R75: the register index whose bus address is `addr`, where there is one. With REG_STRIDE = 0 no address names one
register (log 8). -/
def Params.registerIndex? (p : Params) (addr : Nat) : Option Nat :=
  if p.regStride = 0 ∨ addr < p.baseAddr ∨ (addr - p.baseAddr) % p.regStride ≠ 0 then none
  else some ((addr - p.baseAddr) / p.regStride)

end Sys2Proof
end

