-- ==== Sys2Proof/Machine/State.lean ====
section
/-! DEFINITION. The state of RC5CORE (10_state R30), of the host and the schedule around it, and the reset state (R57). -/

namespace Sys2Proof.Machine

/-- An indexed memory (20_memory R70) as entries by strictly rising index. An index that is not listed has not been
written since reset: its value is a free value (log 4). `Memory.wf` is the canonical form. With bytes it is a list of
`Host.Cell`. -/
abbrev Memory (α : Type) := List (Nat × α)

/-- The error codes the core produces (60_exceptions R220). Codes 6 to 15 are reserved and have no constructor. -/
inductive ErrCode where
  /-- ERR_NONE (0). -/
  | noError
  /-- ERR_ILLEGAL (1): the command word does not decode. -/
  | illegal
  /-- ERR_NO_KEY (2): ENCRYPT or DECRYPT with KEY_VALID = 0. -/
  | noKey
  /-- ERR_RANGE (3): SET_ROUNDS n with n > R_MAX. -/
  | range
  /-- ERR_KEY_FULL (4): PUSH_KEY with KEYLEN = B_MAX. -/
  | keyFull
  /-- ERR_EMPTY_KEY (5): EXPAND_KEY with KEYLEN = 0 under REJECT. -/
  | emptyKey
deriving DecidableEq, Repr

/-- The core's state, R30's record field by field, at word width `w`. -/
structure Core (w : Nat) where
  /-- BUSY (R43). -/
  busy : Bool
  /-- DONE (R44). -/
  done : Bool
  /-- OVR (R45). -/
  ovr : Bool
  /-- KEY_VALID (R46). -/
  keyValid : Bool
  /-- ERR (R47). -/
  err : BitVec 4
  /-- DONE_IE (R38). -/
  doneIe : Bool
  /-- OVR_IE (R38). -/
  ovrIe : Bool
  /-- ROUNDS, the staged round count (R48). -/
  rounds : BitVec 16
  /-- KEYLEN, the number of staged key bytes (R49). -/
  keyLen : BitVec 16
  /-- R_ACTIVE, the round count of the current expanded key (R50). -/
  rActive : BitVec 16
  /-- DATA_A (R41). -/
  dataA : Word w
  /-- DATA_B (R42). -/
  dataB : Word w
  /-- KEYBUF (R51). -/
  keyBuf : Memory Byte
  /-- S, the ExpandedKey table (R52). -/
  table : Memory (Word w)
  /-- PENDING, the command word in flight (R54). -/
  pending : Option Reg64
  /-- The model's own field: which free draw the unlisted entries of KEYBUF and S are (log 4). -/
  memDraw : Nat
deriving DecidableEq, Repr

/-- One operation of the host: a line of R109, a bus access (20_memory R73, R75), or a wait (30_encoding R110,
70_reset R270). -/
inductive HostOp where
  /-- `RD`: `RegRead(idx)`. -/
  | read (idx : Nat)
  /-- `WR`: `RegWrite(idx, v)`. -/
  | write (idx : Nat) (v : Reg64)
  /-- `WAIT`: read STATUS until BUSY = 0. -/
  | wait
  /-- Wait until `irq` is 1. -/
  | waitIrq
  /-- A bus read of `bytes` bytes at address `addr`. -/
  | busRead (addr bytes : Nat)
  /-- A bus write of `bytes` bytes at address `addr`. -/
  | busWrite (addr bytes : Nat) (v : Reg64)
deriving DecidableEq, Repr

/-- Who moves at a step (00_scope R16). -/
inductive Turn where
  | host
  | core
  | reset
deriving DecidableEq, Repr

/-- The model's own record of what surrounds the core (log 3, log 5, log 6). -/
structure Env where
  /-- The host's remaining operations, next first. -/
  host : List HostOp
  /-- Who moves at the coming steps, next first; when it is empty the core moves if BUSY = 1 and the host otherwise. -/
  turns : List Turn
  /-- Every RegRead performed, oldest first: the register index and the value returned. -/
  reads : List (Nat × Reg64)
  /-- The number of the next free draw. -/
  draws : Nat
deriving DecidableEq, Repr

/-- The whole state: the instance's configuration, the core, and what surrounds it. -/
structure State where
  params : Params
  core : Core params.width
  env : Env
deriving DecidableEq, Repr

/-- The core has no trap and no fault state (60_exceptions R226: "A model has no fault state for the core"), so no step
ends in a fault. -/
inductive Fault where
deriving DecidableEq, Repr

/-- R226: "The only refusals are those of 20_memory.md rule R75 and 00_scope.md rule R9." -/
inductive Refusal where
  /-- Raised by `exec` for an instruction without a meaning. Safe: the model stops. No arm uses it. -/
  | notModelled (mnemonic : String)
  /-- Raised by `step` under a configuration outside R9's legal values. Safe: the model stops. -/
  | illegalConfiguration
  /-- Raised by the host's turn for a bus transaction that is not one whole, aligned 64-bit register access (R75).
  Safe: the model stops. -/
  | notWholeRegisterAccess
deriving DecidableEq, Repr

/-- What an instruction's meaning, and a step, answers. -/
abbrev Result := Host.Outcome State Fault Refusal

/-- R57: the core after a reset whose free contents of KEYBUF and S are draw number `draw`. -/
def Core.afterReset (w draw : Nat) : Core w :=
  { busy := false, done := false, ovr := false, keyValid := false, err := 0, doneIe := false, ovrIe := false,
    rounds := 0, keyLen := 0, rActive := 0, dataA := 0, dataB := 0, keyBuf := [], table := [], pending := none,
    memDraw := draw }

/-- The instance `p` right after reset, with nothing scheduled around it. -/
def State.resetOf (p : Params) : State :=
  { params := p, core := Core.afterReset p.width 0, env := { host := [], turns := [], reads := [], draws := 1 } }

/-- The machine right after reset. The instance is RC5CORE-64 with the default configuration (DESIGN CHOICE, log 1: the spec
chooses W "per instance"); every other instance is `State.resetOf`. -/
def State.reset : State := State.resetOf (Params.default 64)

end Sys2Proof.Machine
end

