-- ==== Sys2Proof/Machine/Ops.lean ====
section
/-! DEFINITION. Arithmetic (00_scope R11), the indexed memories (20_memory R70, R79), completion and raising an error
(00_scope R13), and the core's named updates. -/

namespace Sys2Proof.Machine

variable {α : Type} {w : Nat}

/-- R11: `rotl_W(x, n)`, with `k = n mod W`. -/
def rotl (x : Word w) (n : Nat) : Word w :=
  if n % w = 0 then x else (x <<< (n % w)) ||| (x >>> (w - n % w))

/-- R11: `rotr_W(x, n)`, with `k = n mod W`. -/
def rotr (x : Word w) (n : Nat) : Word w :=
  if n % w = 0 then x else (x >>> (n % w)) ||| (x <<< (w - n % w))

/-- R79: the value last written at index `i`, where there is one. -/
def Memory.read? (m : Memory α) (i : Nat) : Option α :=
  match m with
  | [] => none
  | (k, x) :: rest => if k = i then some x else Memory.read? rest i

/-- Write `v` at index `i`, keeping the indices strictly rising. -/
def Memory.write (m : Memory α) (i : Nat) (v : α) : Memory α :=
  match m with
  | [] => [(i, v)]
  | (k, x) :: rest =>
    if i < k then (i, v) :: (k, x) :: rest
    else if i = k then (i, v) :: rest
    else (k, x) :: Memory.write rest i v

/-- Write the values of `vs` at the indices `i`, `i + 1`, … in that order. -/
def Memory.writeAll (m : Memory α) (i : Nat) (vs : List α) : Memory α :=
  match vs with
  | [] => m
  | v :: rest => Memory.writeAll (Memory.write m i v) (i + 1) rest

/-- Every index of `m` is above `low`, and they rise strictly. -/
def Memory.risingFrom (low : Nat) (m : Memory α) : Bool :=
  match m with
  | [] => true
  | (k, _) :: rest => decide (low < k) && Memory.risingFrom k rest

/-- The canonical form: strictly rising indices. -/
def Memory.wf (m : Memory α) : Bool :=
  match m with
  | [] => true
  | (k, _) :: rest => Memory.risingFrom k rest

/-- Every listed index is below `size`. -/
def Memory.below (size : Nat) (m : Memory α) : Bool := m.all (fun e => decide (e.1 < size))

/-- R220: the code of an error, four bits. -/
def ErrCode.bits (e : ErrCode) : BitVec 4 :=
  match e with
  | .noError => 0
  | .illegal => 1
  | .noKey => 2
  | .range => 3
  | .keyFull => 4
  | .emptyKey => 5

namespace Core

/-- R13, 43_control R213: `complete(code)`, which ends the command in flight. -/
def complete (c : Core w) (code : ErrCode) : Core w :=
  { c with err := code.bits, pending := none, busy := false, done := true }

/-- R13: `raise E(code)` "is `complete(code)` with no other state change". -/
def raise (c : Core w) (code : ErrCode) : Core w := c.complete code

/-- 43_control R211: acceptance of the word `v`. -/
def accept (c : Core w) (v : Reg64) : Core w :=
  { c with pending := some v, busy := true, done := false }

/-- 43_control R212: a write lost while BUSY = 1. -/
def overrun (c : Core w) : Core w := { c with ovr := true }

/-- 40_key_schedule R131: `ROUNDS <- n`, on 16 bits (n is at most R_MAX there). -/
def putRounds (c : Core w) (n : Nat) : Core w := { c with rounds := BitVec.ofNat 16 n }

/-- R132: `KEYLEN <- 0`. -/
def clearKey (c : Core w) : Core w := { c with keyLen := 0 }

/-- R133: `KEYBUF[KEYLEN] <- b` and `KEYLEN <- KEYLEN + 1`. -/
def pushKey (c : Core w) (b : Byte) : Core w :=
  { c with keyBuf := Memory.write c.keyBuf c.keyLen.toNat b, keyLen := c.keyLen + 1 }

/-- R134: `S[i] <- T[i]` for the entries of `T`, `R_ACTIVE <- r`, `KEY_VALID <- 1`. -/
def installKey (c : Core w) (T : List (Word w)) (r : BitVec 16) : Core w :=
  { c with table := Memory.writeAll c.table 0 T, rActive := r, keyValid := true }

/-- 41_encrypt R170, 42_decrypt R190: `DATA_A <- a` and `DATA_B <- b`. -/
def putBlock (c : Core w) (ab : Word w × Word w) : Core w := { c with dataA := ab.1, dataB := ab.2 }

/-- R41: `DATA_A <- a`. -/
def putDataA (c : Core w) (a : Word w) : Core w := { c with dataA := a }

/-- R42: `DATA_B <- b`. -/
def putDataB (c : Core w) (b : Word w) : Core w := { c with dataB := b }

/-- R37: what a write of `v` to STATUS_CLR does. -/
def clearFlags (c : Core w) (v : Reg64) : Core w :=
  { c with done := c.done && !v.getLsbD 1, ovr := c.ovr && !v.getLsbD 2 }

/-- R38: what a write of `v` to IRQ_EN does. -/
def putIrqEnable (c : Core w) (v : Reg64) : Core w :=
  { c with doneIe := v.getLsbD 1, ovrIe := v.getLsbD 2 }

end Core

namespace State

/-- The state with another core. -/
def setCore (s : State) (c : Core s.params.width) : State := { s with core := c }

/-- The state with other surroundings. -/
def setEnv (s : State) (e : Env) : State := { s with env := e }

/-- End the command in flight with `code` after the effect `c` on the core. -/
def completeWith (s : State) (c : Core s.params.width) (code : ErrCode) : Result :=
  .next (s.setCore (c.complete code))

/-- `raise E(code)`: the core's only exception primitive (00_scope R13). -/
def raiseError (s : State) (code : ErrCode) : Result := .next (s.setCore (s.core.raise code))

end State

end Sys2Proof.Machine
end

