-- ==== Sys2Proof/Machine/Operands.lean ====
section
/-! DEFINITION. What a command reads of the core: key bytes, the staged key, table entries. -/

namespace Sys2Proof.Machine

variable {w : Nat}

/-- `KEYBUF[i]` (10_state R51): the byte last written there, or the free value reset left (R57, log 4). -/
def Core.keyByte (c : Core w) (i : Nat) : Byte :=
  (Memory.read? c.keyBuf i).getD (Config.freeKeyByte c.memDraw i)

/-- `S[i]` (R52): the word last written there, or the free value reset left (R57, log 4). -/
def Core.tableWord (c : Core w) (i : Nat) : Word w :=
  (Memory.read? c.table i).getD (Config.freeTableWord w c.memDraw i)

/-- R49: the staged key, `KEYBUF[0 .. KEYLEN-1]`, in order. -/
def Core.stagedKey (c : Core w) : List Byte := (List.range c.keyLen.toNat).map c.keyByte

/-- R41, R42: the block (A, B). -/
def Core.block (c : Core w) : Word w × Word w := (c.dataA, c.dataB)

end Sys2Proof.Machine
end

