-- ==== Sys2Proof/Machine/Control.lean ====
section
/-! DEFINITION. NOP (43_control R210) and the completion of an illegal word (R215). -/

namespace Sys2Proof.Machine

/-- R210: NOP. -/
def execNop (s : State) : Result := s.completeWith s.core .noError

/-- R215: an illegal word completes with ERR_ILLEGAL and changes nothing else. -/
def completeIllegal (s : State) : Result := s.raiseError .illegal

end Sys2Proof.Machine
end

