-- ==== Sys2Proof/Machine/Decrypt.lean ====
section
/-! DEFINITION. The inverse round function (42_decrypt R191) and DECRYPT (R190). -/

namespace Sys2Proof.Machine

variable {w : Nat}

/-- R191: round `i` of Decrypt on (A, B). The B statement runs first, with the A from before the round. -/
def decryptRound (S : Nat → Word w) (i : Nat) (ab : Word w × Word w) : Word w × Word w :=
  let b := rotr (ab.2 - S (2 * i + 1)) (ab.1.toNat % w) ^^^ ab.1
  let a := rotr (ab.1 - S (2 * i)) (b.toNat % w) ^^^ b
  (a, b)

/-- R191: `Decrypt(A, B, r)`: rounds r downto 1, then the two final subtractions. -/
def decryptBlock (S : Nat → Word w) (ab : Word w × Word w) (r : Nat) : Word w × Word w :=
  match r with
  | 0 => (ab.1 - S 0, ab.2 - S 1)
  | i + 1 => decryptBlock S (decryptRound S (i + 1) ab) i

/-- R190: DECRYPT. It uses R_ACTIVE, not the staged ROUNDS. -/
def execDecrypt (s : State) : Result :=
  if s.core.keyValid = false then s.raiseError .noKey
  else s.completeWith (s.core.putBlock (decryptBlock s.core.tableWord s.core.block s.core.rActive.toNat)) .noError

end Sys2Proof.Machine
end

