-- ==== Sys2Proof/Machine/Encrypt.lean ====
section
/-! DEFINITION. The forward round function (41_encrypt R171 to R174) and ENCRYPT (R170). -/

namespace Sys2Proof.Machine

variable {w : Nat}

/-- R171, R172: round `i` of Encrypt on (A, B). The B statement reads the A the round just computed. -/
def encryptRound (S : Nat → Word w) (i : Nat) (ab : Word w × Word w) : Word w × Word w :=
  let a := rotl (ab.1 ^^^ ab.2) (ab.2.toNat % w) + S (2 * i)
  let b := rotl (ab.2 ^^^ a) (a.toNat % w) + S (2 * i + 1)
  (a, b)

/-- R171: `Encrypt(A, B, r)`: the two initial additions, then rounds 1 to r in increasing order. -/
def encryptBlock (S : Nat → Word w) (ab : Word w × Word w) (r : Nat) : Word w × Word w :=
  match r with
  | 0 => (ab.1 + S 0, ab.2 + S 1)
  | i + 1 => encryptRound S (i + 1) (encryptBlock S ab i)

/-- R170: ENCRYPT. It uses R_ACTIVE, not the staged ROUNDS. -/
def execEncrypt (s : State) : Result :=
  if s.core.keyValid = false then s.raiseError .noKey
  else s.completeWith (s.core.putBlock (encryptBlock s.core.tableWord s.core.block s.core.rActive.toNat)) .noError

end Sys2Proof.Machine
end

