-- ==== Sys2Proof/Machine/KeySchedule.lean ====
section
/-! DEFINITION. The key-schedule function (40_key_schedule R150 to R158) and the commands SET_ROUNDS, CLEAR_KEY, PUSH_KEY
and EXPAND_KEY (R131 to R134). -/

namespace Sys2Proof.Machine

variable {w : Nat}

/-- R153: the key-word count, `c = ceil(b/u)`, and 1 for the empty key (ZERO_WORD). -/
def keyWordCount (u b : Nat) : Nat := if b = 0 then 1 else (b + u - 1) / u

/-- R151: the fold of Pack over `n - 1` downto 0:
`L[n div u] <- rotl_W(L[n div u], 8) +_W zext_W(K[n])`. -/
def packLoop (u : Nat) (K : List Byte) (n : Nat) (L : List (Word w)) : List (Word w) :=
  match n with
  | 0 => L
  | n + 1 => packLoop u K n (L.set (n / u) (rotl (L.getD (n / u) 0) 8 + (K.getD n 0).setWidth w))

/-- R151, R153: Pack, from words that all start at 0. The empty key gives one zero word. -/
def pack (w : Nat) (K : List Byte) : List (Word w) :=
  packLoop (w / 8) K K.length (List.replicate (keyWordCount (w / 8) K.length) 0)

/-- R154: `n` terms of the progression from `x` in steps of `q`. -/
def progression (q : Word w) (n : Nat) (x : Word w) : List (Word w) :=
  match n with
  | 0 => []
  | n + 1 => x :: progression q n (x + q)

/-- R154: Seed, `t` words from P_W in steps of Q_W. -/
def seed (P Q : Word w) (t : Nat) : List (Word w) := progression Q t P

/-- R53, R155: the scratch of Mix: S', L, the accumulators A and B, the indices i and j. -/
structure MixState (w : Nat) where
  sub : List (Word w)
  key : List (Word w)
  a : Word w
  b : Word w
  i : Nat
  j : Nat
deriving DecidableEq, Repr

/-- R155: one iteration of Mix's loop body. The B statement reads the A just computed. -/
def mixStep (t c : Nat) (m : MixState w) : MixState w :=
  let a := rotl (m.sub.getD m.i 0 + m.a + m.b) 3
  let b := rotl (m.key.getD m.j 0 + a + m.b) ((a + m.b).toNat % w)
  { sub := m.sub.set m.i a, key := m.key.set m.j b, a := a, b := b, i := (m.i + 1) % t, j := (m.j + 1) % c }

/-- R155: `n` iterations of Mix's loop. -/
def mixLoop (t c n : Nat) (m : MixState w) : MixState w :=
  match n with
  | 0 => m
  | n + 1 => mixLoop t c n (mixStep t c m)

/-- R155, R156: Mix, `3 * max(t, c)` iterations from A = B = 0 and i = j = 0. -/
def mix (t c : Nat) (S L : List (Word w)) : List (Word w) :=
  (mixLoop t c (3 * max t c) { sub := S, key := L, a := 0, b := 0, i := 0, j := 0 }).sub

/-- R150, R158: `KeySchedule(K, r)`, of length `t = 2*(r+1)`. It reads only its arguments and the parameters W, P_W, Q_W. -/
def keySchedule (P Q : Word w) (K : List Byte) (r : Nat) : List (Word w) :=
  mix (2 * (r + 1)) (keyWordCount (w / 8) K.length) (seed P Q (2 * (r + 1))) (pack w K)

/-- R131: SET_ROUNDS n. -/
def execSetRounds (n : Nat) (s : State) : Result :=
  if s.params.rMax < n then s.raiseError .range
  else s.completeWith (s.core.putRounds n) .noError

/-- R132: CLEAR_KEY. -/
def execClearKey (s : State) : Result := s.completeWith s.core.clearKey .noError

/-- R133: PUSH_KEY b. -/
def execPushKey (b : Nat) (s : State) : Result :=
  if s.core.keyLen.toNat = s.params.bMax then s.raiseError .keyFull
  else s.completeWith (s.core.pushKey (BitVec.ofNat 8 b)) .noError

/-- R134: the table EXPAND_KEY computes, for the staged key and the staged round count. -/
def expandedKey (s : State) : List (Word s.params.width) :=
  keySchedule s.params.magicP s.params.magicQ s.core.stagedKey s.core.rounds.toNat

/-- R134: EXPAND_KEY. -/
def execExpandKey (s : State) : Result :=
  if s.core.keyLen = 0 ∧ s.params.emptyKey = .reject then s.raiseError .emptyKey
  else s.completeWith (s.core.installKey (expandedKey s) s.core.rounds) .noError

end Sys2Proof.Machine
end

