-- ==== Sys2Proof/Machine/Dispatch.lean ====
section
/-! DEFINITION. `execute(cmd)` of 43_control R213: one arm per command, each one call of its meaning. -/

namespace Sys2Proof.Machine

def exec (i : Instr) (s : State) : Host.Outcome State Fault Refusal :=
  match i with
  | .nop => Sys2Proof.Machine.execNop s
  | .setRounds n => Sys2Proof.Machine.execSetRounds n s
  | .clearKey => Sys2Proof.Machine.execClearKey s
  | .pushKey b => Sys2Proof.Machine.execPushKey b s
  | .expandKey => Sys2Proof.Machine.execExpandKey s
  | .encrypt => Sys2Proof.Machine.execEncrypt s
  | .decrypt => Sys2Proof.Machine.execDecrypt s

end Sys2Proof.Machine
end

