-- ==== Sys2Proof/Machine/Flags.lean ====
section
/-! DEFINITION. STATUS, the interrupt enables and the interrupt line (10_state R35, R38, R55). -/

namespace Sys2Proof.Machine

variable {w : Nat}

/-- A field at bits `lo` and up of a 64-bit register, zero elsewhere. -/
def fieldAt {n : Nat} (lo : Nat) (x : BitVec n) : Reg64 := x.setWidth 64 <<< lo

/-- R35: a read of STATUS: BUSY at bit 0, DONE at 1, OVR at 2, KEY_VALID at 3, ERR at 11:8. -/
def Core.statusWord (c : Core w) : Reg64 :=
  fieldAt 0 (BitVec.ofBool c.busy) ||| fieldAt 1 (BitVec.ofBool c.done) ||| fieldAt 2 (BitVec.ofBool c.ovr)
    ||| fieldAt 3 (BitVec.ofBool c.keyValid) ||| fieldAt 8 c.err

/-- R38: a read of IRQ_EN: DONE_IE at bit 1, OVR_IE at 2. -/
def Core.irqEnableWord (c : Core w) : Reg64 :=
  fieldAt 1 (BitVec.ofBool c.doneIe) ||| fieldAt 2 (BitVec.ofBool c.ovrIe)

/-- R55: `irq = (DONE and DONE_IE) or (OVR and OVR_IE)`. -/
def Core.irq (c : Core w) : Bool := (c.done && c.doneIe) || (c.ovr && c.ovrIe)

/-- 60_exceptions R231: whether the interrupt controller's input number `line` is driven by the core; which line that is is
the platform's IRQ_LINE. -/
def Core.drivesLine (c : Core w) (line : Nat) : Bool := decide (line = Config.irqLine) && c.irq

end Sys2Proof.Machine
end

