-- ==== Sys2Proof/Machine/Port.lean ====
section
/-! DEFINITION. The register port (10_state R33 to R42, 20_memory R73 to R77): RegRead and RegWrite by register index. -/

namespace Sys2Proof.Machine

variable {w : Nat}

/-- R2: IF_VERSION = 1. -/
def interfaceVersion : BitVec 8 := 1

/-- R36: ID, constant for the instance: WIDTH at 7:0, RMAX at 23:8, BMAX at 39:24, IFVER at 47:40. -/
def idWord (p : Params) : Reg64 :=
  fieldAt 0 (BitVec.ofNat 8 p.width) ||| fieldAt 8 (BitVec.ofNat 16 p.rMax) ||| fieldAt 24 (BitVec.ofNat 16 p.bMax)
    ||| fieldAt 40 interfaceVersion

/-- R39: a read of INFO: ROUNDS at 15:0, KEYLEN at 31:16, RACTIVE at 47:32. -/
def Core.infoWord (c : Core w) : Reg64 := fieldAt 0 c.rounds ||| fieldAt 16 c.keyLen ||| fieldAt 32 c.rActive

/-- R41, R42, R76: a read of a DATA register that holds `x`: its zero extension with BUSY = 0, else the free value `draw`. -/
def Core.dataWord (c : Core w) (draw : Nat) (x : Word w) : Reg64 :=
  if c.busy then Config.freeDataRead draw else x.setWidth 64

/-- The value `RegRead(idx)` returns, where a free value, if one is needed, is draw number `draw`. Write-only registers read 0
(R34); so do indices of 8 or more (R74). -/
def readRegister (p : Params) (c : Core w) (draw idx : Nat) : Reg64 :=
  match idx with
  | 0 => idWord p
  | 1 => c.statusWord
  | 2 => 0
  | 3 => c.irqEnableWord
  | 4 => 0
  | 5 => c.infoWord
  | 6 => c.dataWord draw c.dataA
  | 7 => c.dataWord draw c.dataB
  | _ => 0

/-- R76: whether `RegRead(idx)` draws a free value. -/
def Core.readDraws (c : Core w) (idx : Nat) : Bool := c.busy && (idx == 6 || idx == 7)

/-- R40, R211, R212: `RegWrite(4, v)`. -/
def Core.writeCmd (c : Core w) (v : Reg64) : Core w := if c.busy then c.overrun else c.accept v

/-- R41, R212: `RegWrite(6, v)`. -/
def Core.writeDataA (c : Core w) (v : Reg64) : Core w := if c.busy then c.overrun else c.putDataA (v.setWidth w)

/-- R42, R212: `RegWrite(7, v)`. -/
def Core.writeDataB (c : Core w) (v : Reg64) : Core w := if c.busy then c.overrun else c.putDataB (v.setWidth w)

/-- The core after `RegWrite(idx, v)`. Writes to read-only registers (R34) and to indices of 8 or more (R74) are ignored. -/
def writeRegister (c : Core w) (idx : Nat) (v : Reg64) : Core w :=
  match idx with
  | 0 => c
  | 1 => c
  | 2 => c.clearFlags v
  | 3 => c.putIrqEnable v
  | 4 => c.writeCmd v
  | 5 => c
  | 6 => c.writeDataA v
  | 7 => c.writeDataB v
  | _ => c

end Sys2Proof.Machine
end

