-- ==== Sys2Proof/Machine/Agents.lean ====
section
/-! DEFINITION. The steps of the two agents and the reset event (00_scope R16): the host's transaction, the core's completion
(43_control R213), reset (70_reset R260), and which of them comes next (20_memory R80). -/

namespace Sys2Proof.Machine

/-- 43_control R213: the completion of the word `v` in flight: decode it, then run the command's body or raise ERR_ILLEGAL. -/
def completeWord (v : Reg64) (s : State) : Result :=
  match decode v with
  | .illegal _ => completeIllegal s
  | .cmd i => exec i s

/-- R213: the core's turn. Completion "is enabled exactly when BUSY = 1"; otherwise the core makes no step. A state with BUSY = 1
and no word in flight is unreachable (R43), and the core makes no step in it (log 7). -/
def coreTurn (s : State) : Result :=
  match s.core.busy, s.core.pending with
  | true, some v => completeWord v s
  | _, _ => .next s

/-- R260, R261: reset. Every piece of the core's state takes its R57 value, with a fresh draw for KEYBUF and S; a command in
flight is abandoned. The configuration (R263) and the host's side stay. -/
def resetTurn (s : State) : Result :=
  .next ((s.setCore (Core.afterReset s.params.width s.env.draws)).setEnv { s.env with draws := s.env.draws + 1 })

/-- R77, R78: `RegRead(idx)`, one step: the value is returned to the host and the core does not change. -/
def hostRead (s : State) (idx : Nat) : State :=
  s.setEnv
    { s.env with
      reads := s.env.reads ++ [(idx, readRegister s.params s.core s.env.draws idx)]
      draws := if s.core.readDraws idx then s.env.draws + 1 else s.env.draws }

/-- R78: `RegWrite(idx, v)`, one step. -/
def hostWrite (s : State) (idx : Nat) (v : Reg64) : State := s.setCore (writeRegister s.core idx v)

/-- R73, R75: the register index a bus transaction of `bytes` bytes at `addr` reaches; only a whole, aligned 64-bit access
reaches one. -/
def busIndex? (p : Params) (addr bytes : Nat) : Option Nat :=
  if bytes = 8 then p.registerIndex? addr else none

/-- The host performs `op`, with `s` the state whose list no longer holds it. A WAIT that reads BUSY = 1 (30_encoding R110) and a
wait for an `irq` that is 0 stay in the list. -/
def hostOp (s : State) (op : HostOp) : Result :=
  match op with
  | .read idx => .next (hostRead s idx)
  | .write idx v => .next (hostWrite s idx v)
  | .wait =>
    .next ((hostRead s 1).setEnv
      { (hostRead s 1).env with host := if s.core.busy then HostOp.wait :: s.env.host else s.env.host })
  | .waitIrq =>
    .next (s.setEnv { s.env with host := if s.core.irq then s.env.host else HostOp.waitIrq :: s.env.host })
  | .busRead addr bytes =>
    match busIndex? s.params addr bytes with
    | some idx => .next (hostRead s idx)
    | none => .refused .notWholeRegisterAccess
  | .busWrite addr bytes v =>
    match busIndex? s.params addr bytes with
    | some idx => .next (hostWrite s idx v)
    | none => .refused .notWholeRegisterAccess

/-- The host's turn: its next operation, or nothing when its program has ended. -/
def hostTurn (s : State) : Result :=
  match s.env.host with
  | [] => .next s
  | op :: rest => hostOp (s.setEnv { s.env with host := rest }) op

/-- R80, 43_control R214: who moves next: the schedule's next turn; when it is used up, the core if a command is in flight and the
host otherwise (log 3). -/
def nextTurn (s : State) : Turn :=
  match s.env.turns with
  | t :: _ => t
  | [] => if s.core.busy then .core else .host

/-- The state with the schedule's next turn used. -/
def State.afterTurn (s : State) : State := s.setEnv { s.env with turns := s.env.turns.tail }

/-- One turn of the agent `t`. -/
def takeTurn (t : Turn) (s : State) : Result :=
  match t with
  | .host => hostTurn s
  | .core => coreTurn s
  | .reset => resetTurn s

/-- 00_scope R9: a configuration outside the legal values is refused; else the agent whose turn it is moves. -/
def stepOf (s : State) : Result :=
  if s.params.legal then takeTurn (nextTurn s) s.afterTurn else .refused .illegalConfiguration

end Sys2Proof.Machine
end

