-- ==== Sys2Proof/Machine/Step.lean ====
section
/-! DEFINITION. One step of the machine, and the placing of a command word where the core's next step takes it. -/

namespace Sys2Proof.Machine

/-- One step: a host transaction, the core's completion, or a reset (00_scope R16). -/
def step (s : State) : Host.Outcome State Fault Refusal := stepOf s

/-- The command word `w` of `nbits` bits accepted into PENDING (43_control R211), with the core's turn next, so that the next
step completes exactly it (log 12). -/
def State.withFetchWord (s : State) (nbits w : Nat) : State :=
  (s.setCore (s.core.accept (tableWord nbits w))).setEnv { s.env with turns := .core :: s.env.turns }

end Sys2Proof.Machine
end

