-- ==== Sys2Proof/Machine/HostProgram.lean ====
section
/-! DEFINITION. The host's assembler syntax and pseudo-operations (30_encoding R109, R110) as host operations. -/

namespace Sys2Proof.Machine

/-- The register names of R109 (10_state R33). -/
inductive RegName where
  | id
  | status
  | statusClr
  | irqEn
  | cmd
  | info
  | dataA
  | dataB
deriving DecidableEq, Repr

/-- 10_state R33: the index of a register. -/
def RegName.index (r : RegName) : Nat :=
  match r with
  | .id => 0
  | .status => 1
  | .statusClr => 2
  | .irqEn => 3
  | .cmd => 4
  | .info => 5
  | .dataA => 6
  | .dataB => 7

/-- R109: `WR <reg>, <value>`. -/
def lineWr (r : RegName) (v : Reg64) : HostOp := .write r.index v

/-- R109: `RD <reg>`. The value returned is appended to the host's reads; the host variable's name is notation. -/
def lineRd (r : RegName) : HostOp := .read r.index

/-- R109: a command line, `WR CMD` of its word; the assembler rejects one that has no encoding. -/
def lineCommand? (i : Instr) : Option HostOp := if i.wellFormed then some (lineWr .cmd (encode i)) else none

/-- R110: `RUN <cmd>`, for a command that has an encoding. -/
def pseudoRun (i : Instr) : List HostOp := [lineWr .cmd (encode i), .wait]

/-- R110: `LOADKEY b0, …`. -/
def pseudoLoadKey (key : List Byte) : List HostOp :=
  pseudoRun .clearKey ++ key.flatMap (fun b => pseudoRun (.pushKey b.toNat))

/-- R110: `SETKEY r; b0, …`, the source's `new(keyBytes, roundCount)`. -/
def pseudoSetKey (r : BitVec 16) (key : List Byte) : List HostOp :=
  pseudoRun (.setRounds r.toNat) ++ pseudoLoadKey key ++ pseudoRun .expandKey

/-- R110: write the block, run the command, read the block back. -/
def pseudoBlock (i : Instr) (a b : Reg64) : List HostOp :=
  [lineWr .dataA a, lineWr .dataB b] ++ pseudoRun i ++ [lineRd .dataA, lineRd .dataB]

/-- R110: `ENCBLK a, b -> x, y`, the source's `encrypt`. -/
def pseudoEncBlk (a b : Reg64) : List HostOp := pseudoBlock .encrypt a b

/-- R110: `DECBLK a, b -> x, y`, the source's `decrypt`. -/
def pseudoDecBlk (a b : Reg64) : List HostOp := pseudoBlock .decrypt a b

end Sys2Proof.Machine
end

