-- ==== Sys2Proof/Safety.lean ====
section
/-! DEFINITION. What claims speak of: the state invariants (10_state R56), what a program cannot see (R51, R52, R57), the end of a
host program (43_control R217). -/

namespace Sys2Proof.Machine

variable {w : Nat}

/-- R56, fourth clause, in the model's reading (DEDUCED, log 10): S[0 .. 2*R_ACTIVE+1] is the ExpandedKey of some key that fits
KEYBUF, for the round count R_ACTIVE. -/
def HoldsExpandedKey (p : Params) (c : Core p.width) : Prop :=
  ∃ K : List Byte, K.length ≤ p.bMax ∧ (K = [] → p.emptyKey = .zeroWord) ∧
    ∀ i, i < 2 * (c.rActive.toNat + 1) →
      Memory.read? c.table i = (keySchedule p.magicP p.magicQ K c.rActive.toNat)[i]?

/-- R56's invariants, and the model's own clauses (DESIGN CHOICE, log 10): the canonical form of the two memories with every
listed index in range (R79), every staged key byte listed (R51), and R220's code range. -/
structure CoreInv (p : Params) (c : Core p.width) : Prop where
  /-- R43: BUSY = 1 exactly when PENDING is not none. -/
  busy_iff : c.busy = c.pending.isSome
  /-- R44: DONE = 1 implies BUSY = 0. -/
  done_idle : c.done = true → c.busy = false
  /-- R48: ROUNDS is at most R_MAX. -/
  rounds_le : c.rounds.toNat ≤ p.rMax
  /-- R50: R_ACTIVE is at most R_MAX. -/
  rActive_le : c.rActive.toNat ≤ p.rMax
  /-- R49: KEYLEN is at most B_MAX. -/
  keyLen_le : c.keyLen.toNat ≤ p.bMax
  /-- R46: KEY_VALID records that S and R_ACTIVE hold an ExpandedKey. -/
  key_valid : c.keyValid = true → HoldsExpandedKey p c
  /-- Every staged byte has been written. -/
  staged : ∀ i, i < c.keyLen.toNat → (Memory.read? c.keyBuf i).isSome = true
  keyBuf_wf : Memory.wf c.keyBuf = true
  table_wf : Memory.wf c.table = true
  keyBuf_below : Memory.below p.bMax c.keyBuf = true
  table_below : Memory.below p.tMax c.table = true
  /-- R220: codes 6 to 15 are never produced. -/
  err_le : c.err.toNat ≤ 5

/-- The invariant of the whole state: a legal configuration (R9) and the core's invariants. -/
structure State.Inv (s : State) : Prop where
  legal : s.params.legal = true
  core : CoreInv s.params s.core

/-- What a later command or read can depend on of two cores is the same (R51, R52, R57): everything but KEYBUF at KEYLEN and above,
S where KEY_VALID = 0 or at index 2*R_ACTIVE+2 and above, and what reset left in both. -/
structure SameVisible (c d : Core w) : Prop where
  busy : c.busy = d.busy
  done : c.done = d.done
  ovr : c.ovr = d.ovr
  keyValid : c.keyValid = d.keyValid
  err : c.err = d.err
  doneIe : c.doneIe = d.doneIe
  ovrIe : c.ovrIe = d.ovrIe
  rounds : c.rounds = d.rounds
  keyLen : c.keyLen = d.keyLen
  rActive : c.rActive = d.rActive
  dataA : c.dataA = d.dataA
  dataB : c.dataB = d.dataB
  pending : c.pending = d.pending
  staged : ∀ i, i < c.keyLen.toNat → c.keyByte i = d.keyByte i
  table : c.keyValid = true → ∀ i, i < 2 * (c.rActive.toNat + 1) → c.tableWord i = d.tableWord i

/-- R75: the operation is a register access by index, a wait, or a whole, aligned register access by address. -/
def HostOp.whole (p : Params) (op : HostOp) : Bool :=
  match op with
  | .read _ => true
  | .write _ _ => true
  | .wait => true
  | .waitIrq => true
  | .busRead addr bytes => (busIndex? p addr bytes).isSome
  | .busWrite addr bytes _ => (busIndex? p addr bytes).isSome

/-- The RegWrite, if any, that the coming step performs: register index and value (20_memory R73, R78). -/
def registerWrite? (s : State) : Option (Nat × Reg64) :=
  if nextTurn s = .host then
    match s.env.host with
    | .write idx v :: _ => some (idx, v)
    | .busWrite addr bytes v :: _ => (busIndex? s.params addr bytes).map (fun idx => (idx, v))
    | _ => none
  else none

/-- The word in flight, decoded, if the coming step completes it (43_control R213). -/
def completing? (s : State) : Option Decoded :=
  if nextTurn s = .core ∧ s.core.busy = true then s.core.pending.map decode else none

/-- 43_control R213's last four lines, with the code as a number of R220: what a core becomes at a completion besides its
command's own effect. -/
def Core.endedWith (c : Core w) (code : BitVec 4) : Core w :=
  { c with err := code, pending := none, busy := false, done := true }

/-- The commands of `is`, completed one after another. -/
def execAll (is : List Instr) (s : State) : Result :=
  match is with
  | [] => .next s
  | i :: rest =>
    match exec i s with
    | .next t => execAll rest t
    | .fault f => .fault f
    | .refused r => .refused r

/-- 43_control R217: the host program that began at `start` has ended at `s`: no operation is left, BUSY = 0, and no reset came
between (each reset takes a fresh draw for the memories). -/
def ProgramEnded (start s : State) : Prop :=
  s.env.host = [] ∧ s.core.busy = false ∧ s.core.memDraw = start.core.memDraw

end Sys2Proof.Machine
end

