-- ==== Sys2Proof/Certificates/Slice0/Obligations.lean ====
section
/-! DEFINITION. The statements about RC5CORE. Where a statement gives the whole next state as one record of the state before
it, every field the record does not name is unchanged: that is its frame. -/

open Sys2Proof Sys2Proof.Machine

/-! ## Encoding -/

/-- 30_encoding R111: the seven encoding examples. -/
def Obligations.DecodesTheSpecsExamples : Prop :=
  decode 0x00000000000C0001 = .cmd (.setRounds 12) ∧
  decode 0x0000000000200001 = .cmd (.setRounds 32) ∧
  decode 0x00000000002A0003 = .cmd (.pushKey 0x2A) ∧
  decode 0x0000000000F50003 = .cmd (.pushKey 245) ∧
  decode 0x0000000000000004 = .cmd .expandKey ∧
  (∃ why, decode 0x0000000001000003 = .illegal why) ∧
  (∃ why, decode 0x0000000000000105 = .illegal why)

/-- Decoding the word of any well-formed command gives the command back, with every operand value the encoding admits. -/
def Obligations.DecodeEncodeRoundTrip : Prop :=
  ∀ i : Instr, i.wellFormed = true → decode (encode i) = .cmd i

/-- Each legal word has one meaning: it is the encoding of the well-formed command it decodes to. -/
def Obligations.EncodeDecodeRoundTrip : Prop :=
  ∀ (v : Reg64) (i : Instr), decode v = .cmd i → i.wellFormed = true ∧ encode i = v

/-- R105: a word is legal exactly when one row of the opcode map covers it; it is the row of the command it decodes to, and no
word is covered by two rows. -/
def Obligations.LegalExactlyWhenOneRowCovers : Prop :=
  ∀ v : Reg64,
    (∀ i, decode v = .cmd i → i.row ∈ opcodeMap ∧ i.row.covers v = true) ∧
    (∀ r ∈ opcodeMap, r.covers v = true → ∃ i, decode v = .cmd i ∧ i.row = r) ∧
    (∀ r ∈ opcodeMap, ∀ r' ∈ opcodeMap, r.covers v = true → r'.covers v = true → r = r')

/-- 43_control R215: which words are illegal, and that one completes with ERR_ILLEGAL, BUSY = 0 and DONE = 1 and changes nothing
else. The fields are written as numbers: OPC is v mod 2^8, and so on. -/
def Obligations.IllegalWordsCompleteWithErrIllegal : Prop :=
  (∀ v : Reg64,
    (∃ why, decode v = .illegal why) ↔
      (7 ≤ v.toNat % 2 ^ 8 ∨ v.toNat / 2 ^ 8 % 2 ^ 8 ≠ 0 ∨ v.toNat / 2 ^ 32 ≠ 0 ∨
        (v.toNat / 2 ^ 16 % 2 ^ 16 ≠ 0 ∧ v.toNat % 2 ^ 8 ∈ [0, 2, 4, 5, 6]) ∨
        (v.toNat / 2 ^ 24 % 2 ^ 8 ≠ 0 ∧ v.toNat % 2 ^ 8 = 3))) ∧
  (∀ (s : State) (v : Reg64) (why : Illegal), s.core.busy = true → s.core.pending = some v → decode v = .illegal why →
    coreTurn s = .next (s.setCore (s.core.endedWith 1)))

/-! ## Life cycle -/

/-- When the core's turn is next, BUSY = 1 and the word in flight decodes to `i`, a step is `exec i` after the schedule's turn is
used. The turns are the model's own (log 3). -/
def Obligations.StepRunsTheDecodedCommand : Prop :=
  ∀ (s : State) (v : Reg64) (i : Instr), s.params.legal = true → nextTurn s = .core → s.core.busy = true →
    s.core.pending = some v → decode v = .cmd i → step s = exec i s.afterTurn

/-- 43_control R213: completion is enabled exactly when BUSY = 1; it runs the decoded command, or raises ERR_ILLEGAL, and every path
ends with some code of R220 in ERR, PENDING = none, BUSY = 0 and DONE = 1. -/
def Obligations.CompletionFollowsTheLifeCycle : Prop :=
  ∀ s : State,
    (s.core.busy = false → coreTurn s = .next s) ∧
    (∀ v, s.core.busy = true → s.core.pending = some v →
      (∀ i, decode v = .cmd i → coreTurn s = exec i s) ∧
      (∀ why, decode v = .illegal why → coreTurn s = .next (s.setCore (s.core.endedWith 1))) ∧
      ∃ c' : Core s.params.width, coreTurn s = .next (s.setCore c') ∧ c'.err.toNat ≤ 5 ∧
        c'.pending = none ∧ c'.busy = false ∧ c'.done = true)

/-- R211: a write of `v` to CMD with BUSY = 0 puts `v`, whatever it is, in flight, sets BUSY, clears DONE and changes nothing
else of the core. -/
def Obligations.CommandAcceptance : Prop :=
  ∀ (s : State) (v : Reg64) (rest : List HostOp), s.params.legal = true → nextTurn s = .host →
    s.env.host = .write 4 v :: rest → s.core.busy = false →
    step s = .next ((s.setCore { s.core with pending := some v, busy := true, done := false }).setEnv
      { s.env with host := rest, turns := s.env.turns.tail })

/-- R212: a write to CMD, DATA_A or DATA_B with BUSY = 1 sets OVR and changes nothing else of the core. -/
def Obligations.OverrunDropsTheWrite : Prop :=
  ∀ (s : State) (idx : Nat) (v : Reg64) (rest : List HostOp), s.params.legal = true → nextTurn s = .host →
    s.env.host = .write idx v :: rest → idx = 4 ∨ idx = 6 ∨ idx = 7 → s.core.busy = true →
    step s = .next ((s.setCore { s.core with ovr := true }).setEnv
      { s.env with host := rest, turns := s.env.turns.tail })

/-- 10_state R43 and 43_control R216: BUSY and PENDING change only by acceptance of a command with BUSY = 0, by completion, and by
reset. -/
def Obligations.BusyChangesOnlyByTheLifeCycle : Prop :=
  ∀ (s t : State), s.core.busy = s.core.pending.isSome → step s = .next t →
    t.core.busy = t.core.pending.isSome ∧
    ((t.core.busy = s.core.busy ∧ t.core.pending = s.core.pending) ∨
      (∃ v, s.core.busy = false ∧ registerWrite? s = some (4, v) ∧ t.core.busy = true ∧ t.core.pending = some v) ∨
      (nextTurn s = .core ∧ s.core.busy = true ∧ t.core.busy = false ∧ t.core.pending = none) ∨
      (nextTurn s = .reset ∧ t.core.busy = false ∧ t.core.pending = none))

/-- 10_state R45: OVR is set only by a write to CMD, DATA_A or DATA_B while BUSY = 1, and cleared only by STATUS_CLR bit 2 and by
reset. -/
def Obligations.OverrunFlagIsSticky : Prop :=
  ∀ (s t : State), step s = .next t →
    (s.core.ovr = false → t.core.ovr = true →
      s.core.busy = true ∧ ∃ idx v, registerWrite? s = some (idx, v) ∧ (idx = 4 ∨ idx = 6 ∨ idx = 7)) ∧
    (s.core.ovr = true → t.core.ovr = false →
      nextTurn s = .reset ∨ ∃ v, registerWrite? s = some (2, v) ∧ v.getLsbD 2 = true)

/-- 43_control R214, by the model's schedule (log 3): whatever the schedule and the host's whole-register operations (log 8's
reading), a command in flight is over after at most one step more than the schedule is long. -/
def Obligations.CommandsEnd : Prop :=
  ∀ s : State, s.params.legal = true → s.core.busy = s.core.pending.isSome →
    (∀ op ∈ s.env.host, op.whole s.params = true) →
    ∃ k t, k ≤ s.env.turns.length + 1 ∧ Host.Core.run core k s = .next t ∧ t.core.busy = false

/-- 60_exceptions R232, vector CM-20, in the model's schedule (log 3): both orders of a DATA_A write that races an EXPAND_KEY
completion. -/
def Obligations.BothOrdersOfARace : Prop :=
  ∀ (p : Params) (c : Core p.width) (e : Env) (v x : Reg64) (ops : List HostOp) (ts : List Turn),
    p.legal = true → c.busy = true → c.pending = some v → decode v = .cmd .expandKey → e.host = .write 6 x :: ops →
    (∃ c' e', Host.Core.run core 2 (⟨p, c, { e with turns := .host :: .core :: ts }⟩ : State) =
        .next (⟨p, c', e'⟩ : State) ∧
      c'.busy = false ∧ c'.ovr = true ∧ c'.dataA = c.dataA) ∧
    (∃ c' e', Host.Core.run core 2 (⟨p, c, { e with turns := .core :: .host :: ts }⟩ : State) =
        .next (⟨p, c', e'⟩ : State) ∧
      c'.busy = false ∧ c'.ovr = c.ovr ∧ c'.dataA = x.setWidth p.width)

/-! ## Commands: each completes, with its whole effect and its frame -/

/-- 43_control R210: NOP completes with ERR = 0 and no effect, after passing through BUSY = 1 like every command; the all-zero word is
NOP, and a word with OPC = 0 and any other bit set is illegal. -/
def Obligations.NopOnlyCompletes : Prop :=
  (∀ s : State, exec .nop s = .next (s.setCore (s.core.endedWith 0))) ∧
  decode 0 = .cmd .nop ∧
  (∀ s : State, s.core.busy = false →
    writeRegister s.core 4 0 = { s.core with pending := some 0, busy := true, done := false }) ∧
  (∀ v : Reg64, v.toNat % 2 ^ 8 = 0 → v ≠ 0 → ∃ why, decode v = .illegal why)

/-- 40_key_schedule R131: SET_ROUNDS n, encoded with n in IMM16, sets ROUNDS to n when n is at most R_MAX, and raises ERR_RANGE
otherwise. -/
def Obligations.SetRoundsStagesTheCount : Prop :=
  (∀ n, n ≤ 65535 → decode (BitVec.ofNat 64 (n * 2 ^ 16 + 0x01)) = .cmd (.setRounds n)) ∧
  ∀ (s : State) (n : Nat), s.params.legal = true →
    (n ≤ s.params.rMax → ∃ m : BitVec 16, m.toNat = n ∧
      exec (.setRounds n) s = .next (s.setCore ({ s.core with rounds := m }.endedWith 0))) ∧
    (s.params.rMax < n → exec (.setRounds n) s = .next (s.setCore (s.core.endedWith 3)))

/-- R132: CLEAR_KEY sets KEYLEN to 0; the bytes of KEYBUF, S, R_ACTIVE and KEY_VALID stay. -/
def Obligations.ClearKeyEmptiesTheStagedKey : Prop :=
  decode 0x02 = .cmd .clearKey ∧
  ∀ s : State, exec .clearKey s = .next (s.setCore ({ s.core with keyLen := 0 }.endedWith 0)) ∧
    ({ s.core with keyLen := 0 } : Core s.params.width).stagedKey = []

/-- R133: PUSH_KEY b appends the byte b to the staged key when KEYLEN is below B_MAX: KEYBUF[KEYLEN] is b, every other byte reads as
before, KEYLEN grows by 1; with KEYLEN = B_MAX it raises ERR_KEY_FULL. -/
def Obligations.PushKeyAppendsAByte : Prop :=
  (∀ b, b ≤ 255 → decode (BitVec.ofNat 64 (b * 2 ^ 16 + 0x03)) = .cmd (.pushKey b)) ∧
  ∀ (s : State) (b : Nat), s.params.legal = true → b ≤ 255 →
    (s.core.keyLen.toNat < s.params.bMax → ∃ (buf : Memory Byte) (len : BitVec 16),
      exec (.pushKey b) s = .next (s.setCore ({ s.core with keyBuf := buf, keyLen := len }.endedWith 0)) ∧
      len.toNat = s.core.keyLen.toNat + 1 ∧
      (({ s.core with keyBuf := buf } : Core s.params.width).keyByte s.core.keyLen.toNat).toNat = b ∧
      (∀ n, n ≠ s.core.keyLen.toNat →
        ({ s.core with keyBuf := buf } : Core s.params.width).keyByte n = s.core.keyByte n) ∧
      ({ s.core with keyBuf := buf, keyLen := len } : Core s.params.width).stagedKey =
        s.core.stagedKey ++ [BitVec.ofNat 8 b]) ∧
    (s.core.keyLen.toNat = s.params.bMax → exec (.pushKey b) s = .next (s.setCore (s.core.endedWith 4)))

/-- R134: EXPAND_KEY writes KeySchedule of the staged key and staged round count to S[0 .. t-1], t = 2*(ROUNDS+1), copies ROUNDS to
R_ACTIVE and sets KEY_VALID; S[t ..] and everything else stay. With KEYLEN = 0 under REJECT it raises ERR_EMPTY_KEY. -/
def Obligations.ExpandKeyInstallsTheSchedule : Prop :=
  decode 0x04 = .cmd .expandKey ∧
  ∀ s : State,
    (¬ (s.core.keyLen = 0 ∧ s.params.emptyKey = .reject) → ∃ tab : Memory (Word s.params.width),
      exec .expandKey s = .next (s.setCore
        ({ s.core with table := tab, rActive := s.core.rounds, keyValid := true }.endedWith 0)) ∧
      (∀ i, i < 2 * (s.core.rounds.toNat + 1) →
        (keySchedule s.params.magicP s.params.magicQ s.core.stagedKey s.core.rounds.toNat)[i]? =
          some (({ s.core with table := tab } : Core s.params.width).tableWord i)) ∧
      (∀ i, 2 * (s.core.rounds.toNat + 1) ≤ i →
        ({ s.core with table := tab } : Core s.params.width).tableWord i = s.core.tableWord i)) ∧
    (s.core.keyLen = 0 ∧ s.params.emptyKey = .reject → exec .expandKey s = .next (s.setCore (s.core.endedWith 5)))

/-- 41_encrypt R170: ENCRYPT replaces the block by Encrypt of it under S and R_ACTIVE when KEY_VALID = 1, and raises ERR_NO_KEY
otherwise; S is not written. -/
def Obligations.EncryptReplacesTheBlock : Prop :=
  decode 0x05 = .cmd .encrypt ∧
  ∀ s : State,
    (s.core.keyValid = true → exec .encrypt s = .next (s.setCore
      ({ s.core with
          dataA := (encryptBlock s.core.tableWord (s.core.dataA, s.core.dataB) s.core.rActive.toNat).1
          dataB := (encryptBlock s.core.tableWord (s.core.dataA, s.core.dataB) s.core.rActive.toNat).2 }.endedWith 0))) ∧
    (s.core.keyValid = false → exec .encrypt s = .next (s.setCore (s.core.endedWith 2)))

/-- 42_decrypt R190: DECRYPT replaces the block by Decrypt of it under S and R_ACTIVE when KEY_VALID = 1, and raises ERR_NO_KEY
otherwise; S is not written. -/
def Obligations.DecryptReplacesTheBlock : Prop :=
  decode 0x06 = .cmd .decrypt ∧
  ∀ s : State,
    (s.core.keyValid = true → exec .decrypt s = .next (s.setCore
      ({ s.core with
          dataA := (decryptBlock s.core.tableWord (s.core.dataA, s.core.dataB) s.core.rActive.toNat).1
          dataB := (decryptBlock s.core.tableWord (s.core.dataA, s.core.dataB) s.core.rActive.toNat).2 }.endedWith 0))) ∧
    (s.core.keyValid = false → exec .decrypt s = .next (s.setCore (s.core.endedWith 2)))

/-! ## The round functions -/

/-- 00_scope R11: the primitives are the formulas on unbounded integers, for words of at least one bit. -/
def Obligations.ArithmeticIsModular : Prop :=
  ∀ (w : Nat) (x y : Word w) (n : Nat), 0 < w →
    (x + y).toNat = (x.toNat + y.toNat) % 2 ^ w ∧
    ((x - y).toNat : Int) = ((x.toNat : Int) - y.toNat) % 2 ^ w ∧
    (x ^^^ y).toNat = x.toNat ^^^ y.toNat ∧
    (rotl x n).toNat = (if n % w = 0 then x.toNat
      else ((x.toNat <<< (n % w)) ||| (x.toNat >>> (w - n % w))) % 2 ^ w) ∧
    (rotr x n).toNat = (if n % w = 0 then x.toNat
      else ((x.toNat >>> (n % w)) ||| (x.toNat <<< (w - n % w))) % 2 ^ w)

/-- 41_encrypt R171, R172: Encrypt is the two initial additions and then the loop over i = 1 to r, each statement reading what the
one before it wrote; rotations are the library's. -/
def Obligations.EncryptIsTheSpecsLoop : Prop :=
  ∀ (w : Nat) (S : Nat → Word w) (A B : Word w) (r : Nat),
    encryptBlock S (A, B) r =
      (List.range' 1 r).foldl (fun (ab : Word w × Word w) i =>
          let A' := (ab.1 ^^^ ab.2).rotateLeft (ab.2.toNat % w) + S (2 * i)
          (A', (ab.2 ^^^ A').rotateLeft (A'.toNat % w) + S (2 * i + 1)))
        (A + S 0, B + S 1)

/-- 42_decrypt R191: Decrypt is the loop over i = r downto 1 and then the two final subtractions. -/
def Obligations.DecryptIsTheSpecsLoop : Prop :=
  ∀ (w : Nat) (S : Nat → Word w) (A B : Word w) (r : Nat),
    decryptBlock S (A, B) r =
      let x := (List.range' 1 r).reverse.foldl (fun (ab : Word w × Word w) i =>
          let B' := (ab.2 - S (2 * i + 1)).rotateRight (ab.1.toNat % w) ^^^ ab.1
          ((ab.1 - S (2 * i)).rotateRight (B'.toNat % w) ^^^ B', B'))
        (A, B)
      (x.1 - S 0, x.2 - S 1)

/-- 41_encrypt R173, 42_decrypt R193: with R_ACTIVE = 0 the commands are the two additions, and the two subtractions. -/
def Obligations.ZeroRounds : Prop :=
  ∀ s : State, s.core.keyValid = true → s.core.rActive = 0 →
    exec .encrypt s = .next (s.setCore ({ s.core with
      dataA := s.core.dataA + s.core.tableWord 0, dataB := s.core.dataB + s.core.tableWord 1 }.endedWith 0)) ∧
    exec .decrypt s = .next (s.setCore ({ s.core with
      dataA := s.core.dataA - s.core.tableWord 0, dataB := s.core.dataB - s.core.tableWord 1 }.endedWith 0))

/-- 42_decrypt R192: at every width, round count, table and block, each function undoes the other. At command level, DECRYPT
restores the block ENCRYPT took, and ENCRYPT the block DECRYPT took, whatever commands other than EXPAND_KEY, ENCRYPT and DECRYPT
complete between them. -/
def Obligations.EncryptAndDecryptAreInverse : Prop :=
  (∀ (w : Nat) (S : Nat → Word w) (A B : Word w) (r : Nat),
    decryptBlock S (encryptBlock S (A, B) r) r = (A, B) ∧ encryptBlock S (decryptBlock S (A, B) r) r = (A, B)) ∧
  ∀ (p : Params) (c : Core p.width) (e : Env) (between : List Instr), c.keyValid = true →
    (∀ i ∈ between, i ≠ .expandKey ∧ i ≠ .encrypt ∧ i ≠ .decrypt) →
    (∃ c' : Core p.width, execAll ([.encrypt] ++ between ++ [.decrypt]) ⟨p, c, e⟩ = .next ⟨p, c', e⟩ ∧
      c'.dataA = c.dataA ∧ c'.dataB = c.dataB ∧ c'.err = 0) ∧
    (∃ c' : Core p.width, execAll ([.decrypt] ++ between ++ [.encrypt]) ⟨p, c, e⟩ = .next ⟨p, c', e⟩ ∧
      c'.dataA = c.dataA ∧ c'.dataB = c.dataB ∧ c'.err = 0)

/-! ## The key schedule -/

/-- 40_key_schedule R152: the closed form of Pack, at every width of whole bytes. -/
def Obligations.PackClosedForm : Prop :=
  ∀ (u : Nat) (K : List Byte), 0 < u →
    (pack (8 * u) K).length = (if K = [] then 1 else (K.length + u - 1) / u) ∧
    ∀ k, ((pack (8 * u) K).getD k 0).toNat =
      ((List.range u).map (fun m => (K.getD (k * u + m) 0).toNat * 2 ^ (8 * m))).sum

/-- 20_memory R71: key byte K[n] is bits 8*(n mod u)+7 : 8*(n mod u) of key word L[n div u], and the bytes of the last word that the
key does not reach are zero. -/
def Obligations.PackIsLittleEndian : Prop :=
  ∀ (u : Nat) (K : List Byte), 0 < u →
    (∀ n, n < K.length → ((pack (8 * u) K).getD (n / u) 0).extractLsb' (8 * (n % u)) 8 = K.getD n 0) ∧
    (∀ n, K.length ≤ n → ((pack (8 * u) K).getD (n / u) 0).extractLsb' (8 * (n % u)) 8 = 0)

/-- 40_key_schedule R153: for b >= 1 the key-word count is ceil(b/u); it is between 1 and C_MAX, the empty key packs to one zero
word, and under REJECT the empty key is an error instead. -/
def Obligations.KeyWordCountIsInRange : Prop :=
  ∀ (s : State), s.params.legal = true → s.core.keyLen.toNat ≤ s.params.bMax →
    (s.core.keyLen ≠ 0 → (pack s.params.width s.core.stagedKey).length =
      (s.core.keyLen.toNat + s.params.bytesPerWord - 1) / s.params.bytesPerWord) ∧
    1 ≤ (pack s.params.width s.core.stagedKey).length ∧
    (pack s.params.width s.core.stagedKey).length ≤ s.params.cMax ∧
    pack s.params.width [] = [0] ∧
    (s.params.emptyKey = .reject → s.core.keyLen = 0 →
      exec .expandKey s = .next (s.setCore (s.core.endedWith 5)))

/-- R154: Seed has t words, the first is P_W, each next one adds Q_W, and word i is (P_W + i * Q_W) mod 2^W. -/
def Obligations.SeedClosedForm : Prop :=
  ∀ (w : Nat) (P Q : Word w) (t : Nat),
    (seed P Q t).length = t ∧
    (0 < t → (seed P Q t)[0]? = some P) ∧
    (∀ i, i + 1 < t → (seed P Q t)[i + 1]? = ((seed P Q t)[i]?).map (· + Q)) ∧
    (∀ i, i < t → ((seed P Q t).getD i 0).toNat = (P.toNat + i * Q.toNat) % 2 ^ w)

/-- R155: Mix is the spec's loop over k with the tables as functions of the index, i = k mod t and j = k mod c, A and B from 0, and the
library's rotations. -/
def Obligations.MixIsTheSpecsLoop : Prop :=
  ∀ (w t c : Nat) (S L : List (Word w)), 0 < t → 0 < c → S.length = t → L.length = c →
    ∀ i, i < t → (mix t c S L)[i]? = some
      (((List.range (3 * max t c)).foldl
        (fun (x : (Nat → Word w) × (Nat → Word w) × Word w × Word w) k =>
          let A := (x.1 (k % t) + x.2.2.1 + x.2.2.2).rotateLeft 3
          let B := (x.2.1 (k % c) + A + x.2.2.2).rotateLeft ((A + x.2.2.2).toNat % w)
          (Function.update x.1 (k % t) A, Function.update x.2.1 (k % c) B, A, B))
        (fun n => S.getD n 0, fun n => L.getD n 0, 0, 0)).1 i)

/-- R156: in its 3 * max(t, c) iterations, at least 6 of them, Mix's iteration k works at i = k mod t and j = k mod c, each index of
the larger table is visited exactly three times and each of the smaller at least three times. -/
def Obligations.MixVisitsEveryIndex : Prop :=
  ∀ (w r c : Nat) (m : MixState w), 0 < c → m.i = 0 → m.j = 0 →
    (∀ S L : List (Word w), mix (2 * (r + 1)) c S L =
      (mixLoop (2 * (r + 1)) c (3 * max (2 * (r + 1)) c) { sub := S, key := L, a := 0, b := 0, i := 0, j := 0 }).sub) ∧
    (∀ k, (mixLoop (2 * (r + 1)) c k m).i = k % (2 * (r + 1)) ∧ (mixLoop (2 * (r + 1)) c k m).j = k % c) ∧
    6 ≤ 3 * max (2 * (r + 1)) c ∧
    (∀ x, x < max (2 * (r + 1)) c →
      (List.range (3 * max (2 * (r + 1)) c)).countP (fun k => k % max (2 * (r + 1)) c = x) = 3) ∧
    (∀ x, x < min (2 * (r + 1)) c →
      3 ≤ (List.range (3 * max (2 * (r + 1)) c)).countP (fun k => k % min (2 * (r + 1)) c = x))

/-- R157: one iteration of Mix, at each legal width. A is rotated by 3, which is 3 mod W; B, with the A just computed, is rotated by
(A +_W B) mod W, which is (A + B) mod W of the unbounded sum and the low log2(W) bits of the wrapped sum; an amount of 0 leaves
the word. -/
def Obligations.MixRotationAmounts : Prop :=
  ∀ (w t c : Nat) (m : MixState w), w = 16 ∨ w = 32 ∨ w = 64 →
    let a := (mixStep t c m).a
    a = (m.sub.getD m.i 0 + m.a + m.b).rotateLeft 3 ∧ 3 % w = 3 ∧
    (mixStep t c m).b = (m.key.getD m.j 0 + a + m.b).rotateLeft ((a + m.b).toNat % w) ∧
    (a + m.b).toNat % w = (a.toNat + m.b.toNat) % w ∧
    (a + m.b).toNat % w = ((a + m.b).extractLsb' 0 (Nat.log2 w)).toNat ∧
    ∀ x : Word w, rotl x 0 = x

/-- R150, R158: KeySchedule(K, r) has 2*(r+1) words and is Mix of Seed and Pack. -/
def Obligations.KeyScheduleShape : Prop :=
  ∀ (w : Nat) (P Q : Word w) (K : List Byte) (r : Nat),
    (keySchedule P Q K r).length = 2 * (r + 1) ∧
    keySchedule P Q K r = mix (2 * (r + 1)) (pack w K).length (seed P Q (2 * (r + 1))) (pack w K)

/-- R159: with P_W = Q_W = 0 and a key of zero bytes, the empty key among them, the whole ExpandedKey is 0. -/
def Obligations.ZeroKeyUnderZeroConstants : Prop :=
  ∀ (w : Nat) (K : List Byte) (r : Nat), (∀ b ∈ K, b = 0) →
    (∀ x ∈ pack w K, x = 0) ∧ ∀ i, i < 2 * (r + 1) → (keySchedule (0 : Word w) 0 K r)[i]? = some 0

/-! ## Registers -/

/-- 10_state R35: a read of STATUS, bit by bit. -/
def Obligations.StatusBits : Prop :=
  ∀ (p : Params) (c : Core p.width) (d : Nat),
    (readRegister p c d 1).getLsbD 0 = c.busy ∧ (readRegister p c d 1).getLsbD 1 = c.done ∧
    (readRegister p c d 1).getLsbD 2 = c.ovr ∧ (readRegister p c d 1).getLsbD 3 = c.keyValid ∧
    (readRegister p c d 1).extractLsb' 4 4 = 0 ∧ (readRegister p c d 1).extractLsb' 8 4 = c.err ∧
    (readRegister p c d 1).extractLsb' 12 52 = 0

/-- 10_state R36: ID, field by field, the same whatever the core's state. -/
def Obligations.IdentificationFields : Prop :=
  ∀ (p : Params) (c : Core p.width) (d : Nat), p.legal = true →
    ((readRegister p c d 0).extractLsb' 0 8).toNat = p.width ∧
    ((readRegister p c d 0).extractLsb' 8 16).toNat = p.rMax ∧
    ((readRegister p c d 0).extractLsb' 24 16).toNat = p.bMax ∧
    (readRegister p c d 0).extractLsb' 40 8 = 1 ∧ (readRegister p c d 0).extractLsb' 48 16 = 0

/-- 10_state R37: STATUS_CLR clears DONE by bit 1 and OVR by bit 2, in any state, and nothing else; it reads 0. -/
def Obligations.StatusClear : Prop :=
  ∀ (p : Params) (c : Core p.width) (v : Reg64) (d : Nat),
    writeRegister c 2 v = { c with done := if v.getLsbD 1 then false else c.done
                                   ovr := if v.getLsbD 2 then false else c.ovr } ∧
    readRegister p c d 2 = 0

/-- 10_state R38: IRQ_EN. A write sets DONE_IE and OVR_IE from bits 1 and 2 in any state, and nothing else; a read shows them there
and 0 elsewhere. -/
def Obligations.InterruptEnable : Prop :=
  ∀ (p : Params) (c : Core p.width) (v : Reg64) (d : Nat),
    writeRegister c 3 v = { c with doneIe := v.getLsbD 1, ovrIe := v.getLsbD 2 } ∧
    ∀ n, (readRegister p c d 3).getLsbD n = if n = 1 then c.doneIe else if n = 2 then c.ovrIe else false

/-- 10_state R39: INFO, field by field, in any state; no register write changes it. -/
def Obligations.InfoFields : Prop :=
  ∀ (p : Params) (c : Core p.width) (d : Nat),
    (readRegister p c d 5).extractLsb' 0 16 = c.rounds ∧ (readRegister p c d 5).extractLsb' 16 16 = c.keyLen ∧
    (readRegister p c d 5).extractLsb' 32 16 = c.rActive ∧ (readRegister p c d 5).extractLsb' 48 16 = 0 ∧
    ∀ idx v, readRegister p (writeRegister c idx v) d 5 = readRegister p c d 5

/-- 10_state R41, R42: with BUSY = 0 a write of DATA_A or DATA_B keeps the low W bits of the value, and a read returns them
zero-extended; with BUSY = 1 the write is dropped and sets OVR. -/
def Obligations.DataRegisters : Prop :=
  ∀ (p : Params) (c : Core p.width) (v : Reg64) (d : Nat), p.legal = true →
    (c.busy = false →
      writeRegister c 6 v = { c with dataA := v.setWidth p.width } ∧
      writeRegister c 7 v = { c with dataB := v.setWidth p.width } ∧
      (readRegister p c d 6).toNat = c.dataA.toNat ∧ (readRegister p c d 7).toNat = c.dataB.toNat ∧
      (readRegister p (writeRegister c 6 v) d 6).toNat = v.toNat % 2 ^ p.width ∧
      (readRegister p (writeRegister c 7 v) d 7).toNat = v.toNat % 2 ^ p.width) ∧
    (c.busy = true → writeRegister c 6 v = { c with ovr := true } ∧ writeRegister c 7 v = { c with ovr := true })

/-- 10_state R34, 20_memory R74: writes to read-only registers and to indices of 8 or more are ignored, write-only registers and
indices of 8 or more read 0, reserved bits of IRQ_EN and STATUS_CLR ignore writes. A host step at an index of 8 or more changes
nothing but the host's side, and a read there returns 0. -/
def Obligations.ReservedAccesses : Prop :=
  (∀ (s : State) (v : Reg64) (idx : Nat) (rest : List HostOp), s.params.legal = true → nextTurn s = .host → 8 ≤ idx →
    (s.env.host = .read idx :: rest → step s = .next (s.setEnv
      { s.env with host := rest, turns := s.env.turns.tail, reads := s.env.reads ++ [(idx, 0)] })) ∧
    (s.env.host = .write idx v :: rest → step s = .next (s.setEnv
      { s.env with host := rest, turns := s.env.turns.tail }))) ∧
  ∀ (p : Params) (c : Core p.width) (v : Reg64) (d idx : Nat),
    (idx = 0 ∨ idx = 1 ∨ idx = 5 ∨ 8 ≤ idx → writeRegister c idx v = c) ∧
    (idx = 2 ∨ idx = 4 ∨ 8 ≤ idx → readRegister p c d idx = 0) ∧
    (idx = 2 ∨ idx = 3 → writeRegister c idx (v &&& 6) = writeRegister c idx v)

/-- 20_memory R76, R77: a RegRead changes nothing of the core, returns a value, and, unless it reads DATA_A or DATA_B with BUSY = 1,
returns R35 to R42's value. -/
def Obligations.ReadsChangeNothing : Prop :=
  ∀ (s : State) (idx : Nat) (rest : List HostOp), s.params.legal = true → nextTurn s = .host →
    s.env.host = .read idx :: rest →
    ∃ v n, step s = .next (s.setEnv { host := rest, turns := s.env.turns.tail, reads := s.env.reads ++ [(idx, v)], draws := n }) ∧
      (s.core.busy = false ∨ (idx ≠ 6 ∧ idx ≠ 7) →
        n = s.env.draws ∧ ∀ d, v = readRegister s.params s.core d idx)

/-- 20_memory R77: writing IRQ_EN or STATUS_CLR twice, or DATA_A or DATA_B twice with BUSY = 0, is writing it once; a second write of
CMD is not: it overruns. -/
def Obligations.WriteIdempotence : Prop :=
  ∀ (w : Nat) (c : Core w) (v : Reg64),
    writeRegister (writeRegister c 2 v) 2 v = writeRegister c 2 v ∧
    writeRegister (writeRegister c 3 v) 3 v = writeRegister c 3 v ∧
    (c.busy = false → writeRegister (writeRegister c 6 v) 6 v = writeRegister c 6 v ∧
      writeRegister (writeRegister c 7 v) 7 v = writeRegister c 7 v ∧
      writeRegister (writeRegister c 4 v) 4 v = { writeRegister c 4 v with ovr := true })

/-- 20_memory R73, R75, in the model's reading (log 8): a bus access is whole and aligned exactly when it has 8 bytes and stands at
BASE_ADDR + REG_STRIDE * n for some n, 8 and above included; it is then the access of register index n, and every other bus access
is refused. REG_STRIDE = 0 is left out: log 8 says what the model does there. -/
def Obligations.BusAccesses : Prop :=
  ∀ (s : State) (v : Reg64) (rest : List HostOp), s.params.legal = true → 0 < s.params.regStride → nextTurn s = .host →
    (∀ n, step (s.setEnv { s.env with host := .busRead (s.params.baseAddr + s.params.regStride * n) 8 :: rest }) =
      step (s.setEnv { s.env with host := .read n :: rest })) ∧
    (∀ n, step (s.setEnv { s.env with host := .busWrite (s.params.baseAddr + s.params.regStride * n) 8 v :: rest }) =
      step (s.setEnv { s.env with host := .write n v :: rest })) ∧
    (∀ addr bytes, bytes ≠ 8 ∨ (∀ n, addr ≠ s.params.baseAddr + s.params.regStride * n) →
      step (s.setEnv { s.env with host := .busRead addr bytes :: rest }) = .refused .notWholeRegisterAccess ∧
      step (s.setEnv { s.env with host := .busWrite addr bytes v :: rest }) = .refused .notWholeRegisterAccess)

/-- 30_encoding R110, with the host's lists as the model keeps them (log 6): a turn of WAIT is one read of STATUS, whose whole value
(ERR in it, 60_exceptions R224) the host gets, and the wait is over exactly when that value shows BUSY = 0. -/
def Obligations.WaitPollsStatus : Prop :=
  ∀ (s : State) (d : Nat) (rest : List HostOp), s.params.legal = true → nextTurn s = .host → s.env.host = .wait :: rest →
    step s = .next (s.setEnv
      { s.env with host := if (readRegister s.params s.core d 1).getLsbD 0 then .wait :: rest else rest
                   turns := s.env.turns.tail
                   reads := s.env.reads ++ [(1, readRegister s.params s.core d 1)] }) ∧
    (readRegister s.params s.core d 1).getLsbD 0 = s.core.busy ∧
    (readRegister s.params s.core d 1).extractLsb' 8 4 = s.core.err

/-! ## Errors, interrupt, reset -/

/-- 60_exceptions R220, R223: which code a completion leaves, for a word that decodes and for one that does not. -/
def Obligations.ErrorCodes : Prop :=
  ∀ (s t : State) (v : Reg64), s.core.busy = true → s.core.pending = some v → coreTurn s = .next t →
    t.core.err.toNat ≤ 5 ∧
    (t.core.err = 1 ↔ ∃ why, decode v = .illegal why) ∧
    (t.core.err = 2 ↔ (decode v = .cmd .encrypt ∨ decode v = .cmd .decrypt) ∧ s.core.keyValid = false) ∧
    (t.core.err = 3 ↔ ∃ n, decode v = .cmd (.setRounds n) ∧ s.params.rMax < n) ∧
    (t.core.err = 4 ↔ (∃ b, decode v = .cmd (.pushKey b)) ∧ s.core.keyLen.toNat = s.params.bMax) ∧
    (t.core.err = 5 ↔ decode v = .cmd .expandKey ∧ s.core.keyLen = 0 ∧ s.params.emptyKey = .reject)

/-- R222: a completion with a non-zero code changes only ERR, BUSY, DONE and PENDING; and while a command is in flight no host step
changes anything but OVR, DONE, DONE_IE and OVR_IE. -/
def Obligations.ErrorsArePrecise : Prop :=
  (∀ (s t : State) (v : Reg64), s.core.busy = true → s.core.pending = some v → coreTurn s = .next t → t.core.err ≠ 0 →
    t = s.setCore (s.core.endedWith t.core.err)) ∧
  (∀ (p : Params) (c c' : Core p.width) (e e' : Env), c.busy = true → nextTurn ⟨p, c, e⟩ = .host →
    step ⟨p, c, e⟩ = .next ⟨p, c', e'⟩ →
    c' = { c with ovr := c'.ovr, done := c'.done, doneIe := c'.doneIe, ovrIe := c'.ovrIe })

/-- 60_exceptions R226, 00_scope R9, 20_memory R75: no step ends in a fault; a step is refused exactly under a configuration outside
R9's legal values and, under a legal one, at a bus transaction that is no whole register access; every command completes, leaves
the core idle, and the core then accepts any next command. Which bus transactions are whole register accesses is the model's
reading, and that none is under REG_STRIDE = 0 is its choice (log 8). -/
def Obligations.NoTraps : Prop :=
  (∀ s : State, (∀ f, step s ≠ .fault f) ∧
    (∀ r, step s = .refused r ↔
      (r = .illegalConfiguration ∧ s.params.legal = false) ∨
      (r = .notWholeRegisterAccess ∧ s.params.legal = true ∧ nextTurn s = .host ∧
        ∃ op rest, s.env.host = op :: rest ∧ op.whole s.params = false))) ∧
  (∀ p : Params, p.legal = true ↔
    (p.width = 16 ∨ p.width = 32 ∨ p.width = 64) ∧ p.rMax ≤ 65535 ∧ 1 ≤ p.bMax ∧ p.bMax ≤ 65535) ∧
  (∀ (i : Instr) (s : State), ∃ t, exec i s = .next t ∧ t.core.busy = false ∧ t.core.pending = none ∧
    ∀ v, (writeRegister t.core 4 v).busy = true ∧ (writeRegister t.core 4 v).pending = some v)

/-- 10_state R55, 60_exceptions R230, R234: `irq` follows the flags under the enables; writing IRQ_EN masks or asserts it at once without
touching the flags; STATUS_CLR with bits 1 and 2 makes it 0. -/
def Obligations.InterruptLine : Prop :=
  ∀ (w : Nat) (c : Core w) (v : Reg64),
    c.irq = ((c.done && c.doneIe) || (c.ovr && c.ovrIe)) ∧
    (writeRegister c 3 v).irq = ((c.done && v.getLsbD 1) || (c.ovr && v.getLsbD 2)) ∧
    (writeRegister c 3 v).done = c.done ∧ (writeRegister c 3 v).ovr = c.ovr ∧
    (v.getLsbD 1 = true → v.getLsbD 2 = true → (writeRegister c 2 v).irq = false)

/-- 70_reset R260, R261, 10_state R57: reset in any state, a command in flight or not, sets every piece of the core's state to its
reset value, KEYBUF and S to nothing listed (free values, log 4), and changes neither the configuration nor the host's side (log 13). -/
def Obligations.ResetSetsEveryValue : Prop :=
  ∀ s : State, s.params.legal = true → nextTurn s = .reset → ∃ d n,
    step s = .next ((s.setCore
      { busy := false, done := false, ovr := false, keyValid := false, err := 0, doneIe := false, ovrIe := false, rounds := 0,
        keyLen := 0, rActive := 0, dataA := 0, dataB := 0, keyBuf := [], table := [], pending := none,
        memDraw := d }).setEnv { s.env with turns := s.env.turns.tail, draws := n })

/-- 10_state R57, 70_reset R262, for the model's reset state (the instance is log 1's choice): idle, no key valid, every register but
ID (R36's constant, which IdentificationFields states) at 0, both interrupt sources disabled. -/
def Obligations.ResetStateIsIdle : Prop :=
  State.reset.core.busy = false ∧ State.reset.core.done = false ∧ State.reset.core.ovr = false ∧
  State.reset.core.keyValid = false ∧ State.reset.core.err = 0 ∧ State.reset.core.doneIe = false ∧
  State.reset.core.ovrIe = false ∧ State.reset.core.rounds = 0 ∧ State.reset.core.keyLen = 0 ∧
  State.reset.core.rActive = 0 ∧ State.reset.core.dataA = 0 ∧ State.reset.core.dataB = 0 ∧
  State.reset.core.pending = none ∧ State.reset.core.irq = false

/-- 70_reset R263: no step, reset among them, changes the configuration record, and ID reads the same. -/
def Obligations.ConfigurationIsFixed : Prop :=
  ∀ (s t : State), step s = .next t → t.params = s.params ∧
    ∀ d, readRegister t.params t.core d 0 = readRegister s.params s.core d 0

/-! ## Who writes what -/

/-- 10_state R46, R50, R52: S, R_ACTIVE and KEY_VALID change only by an error-free EXPAND_KEY, which copies ROUNDS, sets KEY_VALID and
leaves every word of S past the new key's, and by reset, which clears R_ACTIVE and KEY_VALID. -/
def Obligations.OnlyExpandKeyReplacesTheKey : Prop :=
  ∀ (p : Params) (c c' : Core p.width) (e e' : Env), step ⟨p, c, e⟩ = .next ⟨p, c', e'⟩ →
    (c'.table = c.table ∧ (∀ i, c'.tableWord i = c.tableWord i) ∧ c'.rActive = c.rActive ∧ c'.keyValid = c.keyValid) ∨
    (completing? ⟨p, c, e⟩ = some (.cmd .expandKey) ∧ c'.err = 0 ∧ c'.rActive = c.rounds ∧ c'.keyValid = true ∧
      ∀ i, 2 * (c.rounds.toNat + 1) ≤ i → c'.tableWord i = c.tableWord i) ∨
    (nextTurn ⟨p, c, e⟩ = .reset ∧ c'.rActive = 0 ∧ c'.keyValid = false)

/-- 10_state R48, R49, R51: ROUNDS changes only by SET_ROUNDS; KEYLEN and KEYBUF only by CLEAR_KEY, which sets KEYLEN to 0 and erases no
byte, and by PUSH_KEY, which writes the byte KEYBUF[KEYLEN] and leaves every other; all also by reset. -/
def Obligations.OnlyTheirCommandsChangeTheStagedKey : Prop :=
  ∀ (s t : State), step s = .next t →
    (t.core.rounds = s.core.rounds ∨
      (∃ n, completing? s = some (.cmd (.setRounds n)) ∧ n ≤ s.params.rMax ∧ t.core.rounds = BitVec.ofNat 16 n) ∨
      (nextTurn s = .reset ∧ t.core.rounds = 0)) ∧
    ((t.core.keyLen = s.core.keyLen ∧ t.core.keyBuf = s.core.keyBuf ∧ ∀ i, t.core.keyByte i = s.core.keyByte i) ∨
      (completing? s = some (.cmd .clearKey) ∧ t.core.keyLen = 0 ∧ t.core.keyBuf = s.core.keyBuf ∧
        ∀ i, t.core.keyByte i = s.core.keyByte i) ∨
      (∃ b, completing? s = some (.cmd (.pushKey b)) ∧ t.core.keyLen = s.core.keyLen + 1 ∧
        t.core.keyByte s.core.keyLen.toNat = BitVec.ofNat 8 b ∧
        ∀ i, i ≠ s.core.keyLen.toNat → t.core.keyByte i = s.core.keyByte i) ∨
      (nextTurn s = .reset ∧ t.core.keyLen = 0))

/-- 10_state R38, R44, R47, 60_exceptions R230: DONE is set only by a completion and cleared only by acceptance, STATUS_CLR bit 1 and
reset; ERR changes only at a completion and at reset; the enables change only by a write of IRQ_EN and by reset. -/
def Obligations.OnlyTheirEventsChangeTheFlags : Prop :=
  ∀ (s t : State), step s = .next t →
    (s.core.done = false → t.core.done = true → completing? s ≠ none) ∧
    (s.core.done = true → t.core.done = false →
      (∃ v, registerWrite? s = some (4, v) ∧ s.core.busy = false) ∨
      (∃ v, registerWrite? s = some (2, v) ∧ v.getLsbD 1 = true) ∨ nextTurn s = .reset) ∧
    (t.core.err ≠ s.core.err → completing? s ≠ none ∨ (nextTurn s = .reset ∧ t.core.err = 0)) ∧
    (t.core.doneIe ≠ s.core.doneIe ∨ t.core.ovrIe ≠ s.core.ovrIe →
      (∃ v, registerWrite? s = some (3, v) ∧ t.core.doneIe = v.getLsbD 1 ∧ t.core.ovrIe = v.getLsbD 2) ∨
      (nextTurn s = .reset ∧ t.core.doneIe = false ∧ t.core.ovrIe = false))

/-- 10_state R41, R42: the block changes only by a write of DATA_A or DATA_B with BUSY = 0, which changes its own word, by an
error-free ENCRYPT or DECRYPT under a valid key, and by reset. -/
def Obligations.OnlyTheirEventsChangeTheBlock : Prop :=
  ∀ (p : Params) (c c' : Core p.width) (e e' : Env), step ⟨p, c, e⟩ = .next ⟨p, c', e'⟩ →
    (c'.dataA = c.dataA ∧ c'.dataB = c.dataB) ∨
    (c.busy = false ∧ ∃ v, registerWrite? ⟨p, c, e⟩ = some (6, v) ∧ c'.dataA = v.setWidth p.width ∧ c'.dataB = c.dataB) ∨
    (c.busy = false ∧ ∃ v, registerWrite? ⟨p, c, e⟩ = some (7, v) ∧ c'.dataA = c.dataA ∧ c'.dataB = v.setWidth p.width) ∨
    ((completing? ⟨p, c, e⟩ = some (.cmd .encrypt) ∨ completing? ⟨p, c, e⟩ = some (.cmd .decrypt)) ∧
      c.keyValid = true ∧ c'.err = 0) ∨
    (nextTurn ⟨p, c, e⟩ = .reset ∧ c'.dataA = 0 ∧ c'.dataB = 0)

/-! ## Invariants of the whole machine -/

/-- Every legal instance right after reset has the invariant: 10_state R56's clauses, the fourth in the model's reading, and the
clauses of the model's own (log 10). `State.reset`, whose instance is log 1's choice, is one of them. -/
def Obligations.ResetHasTheInvariants : Prop :=
  State.reset.Inv ∧ ∀ p : Params, p.legal = true → (State.resetOf p).Inv

/-- 10_state R56: every step, of the host, of the core, or a reset, keeps the state invariants. The fourth is in the model's reading
(log 10): S holds the ExpandedKey of some key of at most B_MAX bytes for R_ACTIVE. The canonical form of KEYBUF and S, indices in
range, staged bytes written, and ERR at most 5 are the model's own clauses (log 10). -/
def Obligations.StepKeepsTheInvariants : Prop :=
  ∀ (s t : State), s.Inv → step s = .next t → t.Inv

/-- 10_state R51, R52, R57: what KEYBUF holds at KEYLEN and above, what S holds while KEY_VALID = 0 or above 2*R_ACTIVE+1, and what reset
left in both cannot be seen: two states that differ only there make the same step, with the same reads, and again differ only
there. -/
def Obligations.HiddenMemoryCannotBeSeen : Prop :=
  ∀ (p : Params) (c d : Core p.width) (e : Env), SameVisible c d →
    (∀ c' e', step ⟨p, c, e⟩ = .next ⟨p, c', e'⟩ →
      ∃ d', step ⟨p, d, e⟩ = .next ⟨p, d', e'⟩ ∧ SameVisible c' d') ∧
    (∀ r, step ⟨p, c, e⟩ = .refused r → step ⟨p, d, e⟩ = .refused r)

/-- 60_exceptions R236: key material is protected from reads: no register's value depends on KEYBUF or S. -/
def Obligations.NoRegisterReadsTheKey : Prop :=
  ∀ (p : Params) (c : Core p.width) (buf : Memory Byte) (tab : Memory (Word p.width)) (m d idx : Nat),
    readRegister p { c with keyBuf := buf, table := tab, memDraw := m } d idx = readRegister p c d idx
end

