-- ==== Sys2Proof/Laws/Arith.lean ====
section
/-! SUPPORT. R11's rotations: they are the library's rotations, and each undoes the other. -/

namespace Sys2Proof.Machine

variable {w : Nat}

theorem rotl_eq_rotateLeft (x : Word w) (n : Nat) : rotl x n = x.rotateLeft n := by
  unfold rotl
  split
  · next h =>
    rw [← BitVec.rotateLeft_mod_eq_rotateLeft, h]
    simp [BitVec.rotateLeft, BitVec.rotateLeftAux, BitVec.ushiftRight_eq_zero]
  · rfl

theorem rotr_eq_rotateRight (x : Word w) (n : Nat) : rotr x n = x.rotateRight n := by
  unfold rotr
  split
  · next h =>
    rw [← BitVec.rotateRight_mod_eq_rotateRight, h]
    simp [BitVec.rotateRight, BitVec.rotateRightAux, BitVec.shiftLeft_eq_zero]
  · rfl

@[simp] theorem rotl_zero_amount (x : Word w) : rotl x 0 = x := by simp [rotl]

@[simp] theorem rotr_zero_amount (x : Word w) : rotr x 0 = x := by simp [rotr]

/-- The all-zero word is its own rotation. -/
@[simp] theorem rotl_zero_word (n : Nat) : rotl (0#w) n = 0#w := by simp [rotl]

/-- A left rotation undoes the right rotation by the same amount. -/
@[simp] theorem rotl_rotr (x : Word w) (n : Nat) : rotl (rotr x n) n = x := by
  rw [rotl_eq_rotateLeft, rotr_eq_rotateRight]
  ext i hi
  have hm : n % w < w := Nat.mod_lt _ (by omega)
  rw [BitVec.getElem_rotateLeft]
  split
  · rw [BitVec.getElem_rotateRight, dif_neg (by omega)]
    congr 1; omega
  · rw [BitVec.getElem_rotateRight, dif_pos (by omega)]
    congr 1; omega

/-- A right rotation undoes the left rotation by the same amount. -/
@[simp] theorem rotr_rotl (x : Word w) (n : Nat) : rotr (rotl x n) n = x := by
  rw [rotl_eq_rotateLeft, rotr_eq_rotateRight]
  ext i hi
  have hm : n % w < w := Nat.mod_lt _ (by omega)
  rw [BitVec.getElem_rotateRight]
  split
  · rw [BitVec.getElem_rotateLeft, dif_neg (by omega)]
    congr 1; omega
  · rw [BitVec.getElem_rotateLeft, dif_pos (by omega)]
    congr 1; omega

end Sys2Proof.Machine
end

