-- ==== Sys2Proof/Laws/KeySchedule.lean ====
section
/-! SUPPORT. Lengths and indices of the key schedule's lists; Mix's loop read from its end. -/

namespace Sys2Proof.Machine

variable {w : Nat}

theorem packLoop_length (u : Nat) (K : List Byte) (n : Nat) (L : List (Word w)) :
    (packLoop u K n L).length = L.length := by
  induction n generalizing L with
  | zero => rfl
  | succ n ih => rw [packLoop, ih, List.length_set]

theorem pack_length (w : Nat) (K : List Byte) : (pack w K).length = keyWordCount (w / 8) K.length := by
  rw [pack, packLoop_length, List.length_replicate]

theorem progression_length (q : Word w) (n : Nat) (x : Word w) : (progression q n x).length = n := by
  induction n generalizing x with
  | zero => rfl
  | succ n ih => rw [progression, List.length_cons, ih]

theorem seed_length (P Q : Word w) (t : Nat) : (seed P Q t).length = t := progression_length Q t P

theorem mixLoop_succ (t c n : Nat) (m : MixState w) :
    mixLoop t c (n + 1) m = mixStep t c (mixLoop t c n m) := by
  induction n generalizing m with
  | zero => rfl
  | succ n ih => rw [mixLoop, ih, mixLoop]

/-- Mix's loop never changes how many entries S' and L have. -/
theorem mixLoop_lengths (t c n : Nat) (m : MixState w) :
    (mixLoop t c n m).sub.length = m.sub.length ∧ (mixLoop t c n m).key.length = m.key.length := by
  induction n with
  | zero => exact ⟨rfl, rfl⟩
  | succ n ih => rw [mixLoop_succ]; simpa [mixStep] using ih

end Sys2Proof.Machine
end

