-- ==== Sys2Proof/Laws/Memory.lean ====
section
/-! SUPPORT. The indexed memories: a read after a write, other indices untouched, the canonical form and the range kept. -/

namespace Sys2Proof.Machine

variable {α : Type}

theorem Memory.read?_write (m : Memory α) (i : Nat) (v : α) (n : Nat) :
    Memory.read? (Memory.write m i v) n = if n = i then some v else Memory.read? m n := by
  induction m with
  | nil => simp [Memory.write, Memory.read?, eq_comm]
  | cons e rest ih =>
    obtain ⟨k, x⟩ := e
    simp only [Memory.write]
    split_ifs with h1 h2 h3 h3 h3 <;> simp_all [Memory.read?] <;> grind

theorem Memory.read?_write_same (m : Memory α) (i : Nat) (v : α) :
    Memory.read? (Memory.write m i v) i = some v := by
  rw [Memory.read?_write, if_pos rfl]

theorem Memory.read?_write_other (m : Memory α) {i n : Nat} (v : α) (h : n ≠ i) :
    Memory.read? (Memory.write m i v) n = Memory.read? m n := by
  rw [Memory.read?_write, if_neg h]

/-- What `writeAll` leaves: the new values at `i .. i + vs.length - 1`, every other index as before. -/
theorem Memory.read?_writeAll (vs : List α) (m : Memory α) (i n : Nat) :
    Memory.read? (Memory.writeAll m i vs) n =
      if i ≤ n ∧ n < i + vs.length then vs[n - i]? else Memory.read? m n := by
  induction vs generalizing m i with
  | nil => simp [Memory.writeAll]
  | cons v rest ih =>
    rw [Memory.writeAll, ih, Memory.read?_write]
    by_cases hn : n = i
    · subst hn
      simp
    · by_cases hr : i + 1 ≤ n ∧ n < i + 1 + rest.length
      · have h2 : i ≤ n ∧ n < i + (v :: rest).length := by simp only [List.length_cons]; omega
        have h3 : n - i = (n - (i + 1)) + 1 := by omega
        rw [if_pos hr, if_pos h2, h3, List.getElem?_cons_succ]
      · have h2 : ¬ (i ≤ n ∧ n < i + (v :: rest).length) := by simp only [List.length_cons]; omega
        rw [if_neg hr, if_neg h2, if_neg hn]

theorem Memory.risingFrom_write {low : Nat} (m : Memory α) {i : Nat} (v : α) (hi : low < i)
    (h : Memory.risingFrom low m = true) : Memory.risingFrom low (Memory.write m i v) = true := by
  induction m generalizing low with
  | nil => simp [Memory.write, Memory.risingFrom, hi]
  | cons e rest ih =>
    obtain ⟨k, x⟩ := e
    simp only [Memory.risingFrom, Bool.and_eq_true, decide_eq_true_eq] at h
    simp only [Memory.write]
    split_ifs with h1 h2
    · simp [Memory.risingFrom, hi, h1, h.2]
    · subst h2
      simp [Memory.risingFrom, hi, h.2]
    · simp [Memory.risingFrom, h.1, ih (show k < i by omega) h.2]

/-- A write keeps the canonical form. -/
theorem Memory.wf_write (m : Memory α) (i : Nat) (v : α) (h : Memory.wf m = true) :
    Memory.wf (Memory.write m i v) = true := by
  cases m with
  | nil => simp [Memory.write, Memory.wf, Memory.risingFrom]
  | cons e rest =>
    obtain ⟨k, x⟩ := e
    simp only [Memory.wf] at h
    simp only [Memory.write]
    split_ifs with h1 h2
    · simp [Memory.wf, Memory.risingFrom, h1, h]
    · subst h2
      simpa [Memory.wf] using h
    · exact Memory.risingFrom_write rest v (by omega) h

theorem Memory.wf_writeAll (vs : List α) (m : Memory α) (i : Nat) (h : Memory.wf m = true) :
    Memory.wf (Memory.writeAll m i vs) = true := by
  induction vs generalizing m i with
  | nil => exact h
  | cons v rest ih => exact ih _ _ (Memory.wf_write m i v h)

theorem Memory.below_write {size : Nat} (m : Memory α) {i : Nat} (v : α) (hi : i < size)
    (h : Memory.below size m = true) : Memory.below size (Memory.write m i v) = true := by
  induction m with
  | nil => simp [Memory.write, Memory.below, hi]
  | cons e rest ih =>
    obtain ⟨k, x⟩ := e
    simp only [Memory.below, List.all_cons, Bool.and_eq_true, decide_eq_true_eq] at h ih ⊢
    simp only [Memory.write]
    split_ifs with h1 h2
    · simp [hi, h.1, h.2]
    · simp [hi, h.2]
    · simp [h.1, ih h.2]

theorem Memory.below_writeAll {size : Nat} (vs : List α) (m : Memory α) {i : Nat} (hi : i + vs.length ≤ size)
    (h : Memory.below size m = true) : Memory.below size (Memory.writeAll m i vs) = true := by
  induction vs generalizing m i with
  | nil => exact h
  | cons v rest ih =>
    simp only [List.length_cons] at hi
    exact ih _ (by omega) (Memory.below_write m v (by omega) h)

variable {w : Nat}

/-- A listed table entry is read as it was written. -/
theorem Core.tableWord_of_listed {c : Core w} {i : Nat} {x : Word w} (h : Memory.read? c.table i = some x) :
    c.tableWord i = x := by simp [Core.tableWord, h]

/-- A listed key byte is read as it was written. -/
theorem Core.keyByte_of_listed {c : Core w} {i : Nat} {x : Byte} (h : Memory.read? c.keyBuf i = some x) :
    c.keyByte i = x := by simp [Core.keyByte, h]

/-- A key byte is what KEYBUF and the reset draw make it. -/
theorem Core.keyByte_congr {c d : Core w} (hb : c.keyBuf = d.keyBuf) (hd : c.memDraw = d.memDraw) (i : Nat) :
    c.keyByte i = d.keyByte i := by simp [Core.keyByte, hb, hd]

/-- A table word is what S and the reset draw make it. -/
theorem Core.tableWord_congr {c d : Core w} (ht : c.table = d.table) (hd : c.memDraw = d.memDraw) (i : Nat) :
    c.tableWord i = d.tableWord i := by simp [Core.tableWord, ht, hd]

/-- KEYBUF after a PUSH_KEY: the new byte at KEYLEN, every other byte as before. -/
theorem Core.keyByte_pushKey (c : Core w) (b : Byte) (i : Nat) :
    (c.pushKey b).keyByte i = if i = c.keyLen.toNat then b else c.keyByte i := by
  simp only [Core.keyByte, Core.pushKey, Memory.read?_write]
  split <;> rfl

/-- S after an EXPAND_KEY: the new words from 0 on, every word past them as before. -/
theorem Core.tableWord_installKey (c : Core w) (T : List (Word w)) (r : BitVec 16) (i : Nat) :
    (c.installKey T r).tableWord i = (T[i]?).getD (c.tableWord i) := by
  simp only [Core.tableWord, Core.installKey, Memory.read?_writeAll, Nat.zero_le, true_and, Nat.zero_add, Nat.sub_zero]
  split
  · next h => simp [List.getElem?_eq_getElem h]
  · next h => simp [List.getElem?_eq_none (Nat.le_of_not_lt h)]

end Sys2Proof.Machine
end

