-- ==== Sys2Proof/Laws/PerInstr.lean ====
section
/-! SUPPORT. Per command: its encoding lies in its own row of the opcode map (30_encoding R105). -/

namespace Sys2Proof.Laws.RowCovers

/-- The word of a well-formed command fits its row's mask and pattern. -/
def Statement (i : Instr) : Prop := i.wellFormed = true → i.row.covers (encode i) = true

/-- With OPC below 8 bits and any IMM16, the row that leaves all of IMM16 free covers the word. -/
theorem free_immediate (opc : BitVec 8) (imm : BitVec 16) :
    assembleWord opc imm &&& 0xFFFFFFFF0000FFFF#64 = opc.setWidth 64 := by
  apply BitVec.eq_of_getLsbD_eq
  intro i hi
  interval_cases i <;> simp [assembleWord]

/-- With the high byte of IMM16 zero, the row that leaves IMM16[7:0] free covers the word. -/
theorem free_byte (opc : BitVec 8) (b : BitVec 8) :
    assembleWord opc (b.setWidth 16) &&& 0xFFFFFFFFFF00FFFF#64 = opc.setWidth 64 := by
  apply BitVec.eq_of_getLsbD_eq
  intro i hi
  interval_cases i <;> simp [assembleWord]

theorem nop : Statement .nop := fun _ => by decide

theorem setRounds (n : Nat) : Statement (.setRounds n) := by
  intro _
  exact beq_iff_eq.2 ((free_immediate 1 (BitVec.ofNat 16 n)).trans rfl)

theorem clearKey : Statement .clearKey := fun _ => by decide

theorem pushKey (b : Nat) : Statement (.pushKey b) := by
  intro h
  have hb : BitVec.ofNat 16 b = (BitVec.ofNat 8 b).setWidth 16 := by
    have : b ≤ 255 := by simpa [Instr.wellFormed] using h
    bv_omega
  rw [OpcodeRow.covers, beq_iff_eq, encode, Instr.immediate, hb]
  exact (free_byte 3 (BitVec.ofNat 8 b)).trans rfl

theorem expandKey : Statement .expandKey := fun _ => by decide

theorem encrypt : Statement .encrypt := fun _ => by decide

theorem decrypt : Statement .decrypt := fun _ => by decide

end Sys2Proof.Laws.RowCovers
end

