-- ==== Sys2Proof/Laws/State.lean ====
section
/-! SUPPORT. One lemma per field per named update of the core and of the state, so that no proof unfolds a record update. -/

namespace Sys2Proof.Machine

variable {w : Nat}

namespace Core

@[simp] theorem raise_eq_complete (c : Core w) (e : ErrCode) : c.raise e = c.complete e := rfl

@[simp] theorem complete_busy (c : Core w) (e : ErrCode) : (c.complete e).busy = false := rfl
@[simp] theorem complete_done (c : Core w) (e : ErrCode) : (c.complete e).done = true := rfl
@[simp] theorem complete_ovr (c : Core w) (e : ErrCode) : (c.complete e).ovr = c.ovr := rfl
@[simp] theorem complete_keyValid (c : Core w) (e : ErrCode) : (c.complete e).keyValid = c.keyValid := rfl
@[simp] theorem complete_err (c : Core w) (e : ErrCode) : (c.complete e).err = e.bits := rfl
@[simp] theorem complete_doneIe (c : Core w) (e : ErrCode) : (c.complete e).doneIe = c.doneIe := rfl
@[simp] theorem complete_ovrIe (c : Core w) (e : ErrCode) : (c.complete e).ovrIe = c.ovrIe := rfl
@[simp] theorem complete_rounds (c : Core w) (e : ErrCode) : (c.complete e).rounds = c.rounds := rfl
@[simp] theorem complete_keyLen (c : Core w) (e : ErrCode) : (c.complete e).keyLen = c.keyLen := rfl
@[simp] theorem complete_rActive (c : Core w) (e : ErrCode) : (c.complete e).rActive = c.rActive := rfl
@[simp] theorem complete_dataA (c : Core w) (e : ErrCode) : (c.complete e).dataA = c.dataA := rfl
@[simp] theorem complete_dataB (c : Core w) (e : ErrCode) : (c.complete e).dataB = c.dataB := rfl
@[simp] theorem complete_keyBuf (c : Core w) (e : ErrCode) : (c.complete e).keyBuf = c.keyBuf := rfl
@[simp] theorem complete_table (c : Core w) (e : ErrCode) : (c.complete e).table = c.table := rfl
@[simp] theorem complete_pending (c : Core w) (e : ErrCode) : (c.complete e).pending = none := rfl
@[simp] theorem complete_memDraw (c : Core w) (e : ErrCode) : (c.complete e).memDraw = c.memDraw := rfl

@[simp] theorem accept_busy (c : Core w) (v : Reg64) : (c.accept v).busy = true := rfl
@[simp] theorem accept_done (c : Core w) (v : Reg64) : (c.accept v).done = false := rfl
@[simp] theorem accept_ovr (c : Core w) (v : Reg64) : (c.accept v).ovr = c.ovr := rfl
@[simp] theorem accept_keyValid (c : Core w) (v : Reg64) : (c.accept v).keyValid = c.keyValid := rfl
@[simp] theorem accept_err (c : Core w) (v : Reg64) : (c.accept v).err = c.err := rfl
@[simp] theorem accept_doneIe (c : Core w) (v : Reg64) : (c.accept v).doneIe = c.doneIe := rfl
@[simp] theorem accept_ovrIe (c : Core w) (v : Reg64) : (c.accept v).ovrIe = c.ovrIe := rfl
@[simp] theorem accept_rounds (c : Core w) (v : Reg64) : (c.accept v).rounds = c.rounds := rfl
@[simp] theorem accept_keyLen (c : Core w) (v : Reg64) : (c.accept v).keyLen = c.keyLen := rfl
@[simp] theorem accept_rActive (c : Core w) (v : Reg64) : (c.accept v).rActive = c.rActive := rfl
@[simp] theorem accept_dataA (c : Core w) (v : Reg64) : (c.accept v).dataA = c.dataA := rfl
@[simp] theorem accept_dataB (c : Core w) (v : Reg64) : (c.accept v).dataB = c.dataB := rfl
@[simp] theorem accept_keyBuf (c : Core w) (v : Reg64) : (c.accept v).keyBuf = c.keyBuf := rfl
@[simp] theorem accept_table (c : Core w) (v : Reg64) : (c.accept v).table = c.table := rfl
@[simp] theorem accept_pending (c : Core w) (v : Reg64) : (c.accept v).pending = some v := rfl
@[simp] theorem accept_memDraw (c : Core w) (v : Reg64) : (c.accept v).memDraw = c.memDraw := rfl

@[simp] theorem overrun_busy (c : Core w) : c.overrun.busy = c.busy := rfl
@[simp] theorem overrun_done (c : Core w) : c.overrun.done = c.done := rfl
@[simp] theorem overrun_ovr (c : Core w) : c.overrun.ovr = true := rfl
@[simp] theorem overrun_keyValid (c : Core w) : c.overrun.keyValid = c.keyValid := rfl
@[simp] theorem overrun_err (c : Core w) : c.overrun.err = c.err := rfl
@[simp] theorem overrun_doneIe (c : Core w) : c.overrun.doneIe = c.doneIe := rfl
@[simp] theorem overrun_ovrIe (c : Core w) : c.overrun.ovrIe = c.ovrIe := rfl
@[simp] theorem overrun_rounds (c : Core w) : c.overrun.rounds = c.rounds := rfl
@[simp] theorem overrun_keyLen (c : Core w) : c.overrun.keyLen = c.keyLen := rfl
@[simp] theorem overrun_rActive (c : Core w) : c.overrun.rActive = c.rActive := rfl
@[simp] theorem overrun_dataA (c : Core w) : c.overrun.dataA = c.dataA := rfl
@[simp] theorem overrun_dataB (c : Core w) : c.overrun.dataB = c.dataB := rfl
@[simp] theorem overrun_keyBuf (c : Core w) : c.overrun.keyBuf = c.keyBuf := rfl
@[simp] theorem overrun_table (c : Core w) : c.overrun.table = c.table := rfl
@[simp] theorem overrun_pending (c : Core w) : c.overrun.pending = c.pending := rfl
@[simp] theorem overrun_memDraw (c : Core w) : c.overrun.memDraw = c.memDraw := rfl

@[simp] theorem putRounds_busy (c : Core w) (n : Nat) : (c.putRounds n).busy = c.busy := rfl
@[simp] theorem putRounds_done (c : Core w) (n : Nat) : (c.putRounds n).done = c.done := rfl
@[simp] theorem putRounds_ovr (c : Core w) (n : Nat) : (c.putRounds n).ovr = c.ovr := rfl
@[simp] theorem putRounds_keyValid (c : Core w) (n : Nat) : (c.putRounds n).keyValid = c.keyValid := rfl
@[simp] theorem putRounds_err (c : Core w) (n : Nat) : (c.putRounds n).err = c.err := rfl
@[simp] theorem putRounds_doneIe (c : Core w) (n : Nat) : (c.putRounds n).doneIe = c.doneIe := rfl
@[simp] theorem putRounds_ovrIe (c : Core w) (n : Nat) : (c.putRounds n).ovrIe = c.ovrIe := rfl
@[simp] theorem putRounds_rounds (c : Core w) (n : Nat) : (c.putRounds n).rounds = BitVec.ofNat 16 n := rfl
@[simp] theorem putRounds_keyLen (c : Core w) (n : Nat) : (c.putRounds n).keyLen = c.keyLen := rfl
@[simp] theorem putRounds_rActive (c : Core w) (n : Nat) : (c.putRounds n).rActive = c.rActive := rfl
@[simp] theorem putRounds_dataA (c : Core w) (n : Nat) : (c.putRounds n).dataA = c.dataA := rfl
@[simp] theorem putRounds_dataB (c : Core w) (n : Nat) : (c.putRounds n).dataB = c.dataB := rfl
@[simp] theorem putRounds_keyBuf (c : Core w) (n : Nat) : (c.putRounds n).keyBuf = c.keyBuf := rfl
@[simp] theorem putRounds_table (c : Core w) (n : Nat) : (c.putRounds n).table = c.table := rfl
@[simp] theorem putRounds_pending (c : Core w) (n : Nat) : (c.putRounds n).pending = c.pending := rfl
@[simp] theorem putRounds_memDraw (c : Core w) (n : Nat) : (c.putRounds n).memDraw = c.memDraw := rfl

@[simp] theorem clearKey_busy (c : Core w) : c.clearKey.busy = c.busy := rfl
@[simp] theorem clearKey_done (c : Core w) : c.clearKey.done = c.done := rfl
@[simp] theorem clearKey_ovr (c : Core w) : c.clearKey.ovr = c.ovr := rfl
@[simp] theorem clearKey_keyValid (c : Core w) : c.clearKey.keyValid = c.keyValid := rfl
@[simp] theorem clearKey_err (c : Core w) : c.clearKey.err = c.err := rfl
@[simp] theorem clearKey_doneIe (c : Core w) : c.clearKey.doneIe = c.doneIe := rfl
@[simp] theorem clearKey_ovrIe (c : Core w) : c.clearKey.ovrIe = c.ovrIe := rfl
@[simp] theorem clearKey_rounds (c : Core w) : c.clearKey.rounds = c.rounds := rfl
@[simp] theorem clearKey_keyLen (c : Core w) : c.clearKey.keyLen = 0 := rfl
@[simp] theorem clearKey_rActive (c : Core w) : c.clearKey.rActive = c.rActive := rfl
@[simp] theorem clearKey_dataA (c : Core w) : c.clearKey.dataA = c.dataA := rfl
@[simp] theorem clearKey_dataB (c : Core w) : c.clearKey.dataB = c.dataB := rfl
@[simp] theorem clearKey_keyBuf (c : Core w) : c.clearKey.keyBuf = c.keyBuf := rfl
@[simp] theorem clearKey_table (c : Core w) : c.clearKey.table = c.table := rfl
@[simp] theorem clearKey_pending (c : Core w) : c.clearKey.pending = c.pending := rfl
@[simp] theorem clearKey_memDraw (c : Core w) : c.clearKey.memDraw = c.memDraw := rfl

@[simp] theorem pushKey_busy (c : Core w) (b : Byte) : (c.pushKey b).busy = c.busy := rfl
@[simp] theorem pushKey_done (c : Core w) (b : Byte) : (c.pushKey b).done = c.done := rfl
@[simp] theorem pushKey_ovr (c : Core w) (b : Byte) : (c.pushKey b).ovr = c.ovr := rfl
@[simp] theorem pushKey_keyValid (c : Core w) (b : Byte) : (c.pushKey b).keyValid = c.keyValid := rfl
@[simp] theorem pushKey_err (c : Core w) (b : Byte) : (c.pushKey b).err = c.err := rfl
@[simp] theorem pushKey_doneIe (c : Core w) (b : Byte) : (c.pushKey b).doneIe = c.doneIe := rfl
@[simp] theorem pushKey_ovrIe (c : Core w) (b : Byte) : (c.pushKey b).ovrIe = c.ovrIe := rfl
@[simp] theorem pushKey_rounds (c : Core w) (b : Byte) : (c.pushKey b).rounds = c.rounds := rfl
@[simp] theorem pushKey_keyLen (c : Core w) (b : Byte) : (c.pushKey b).keyLen = c.keyLen + 1 := rfl
@[simp] theorem pushKey_rActive (c : Core w) (b : Byte) : (c.pushKey b).rActive = c.rActive := rfl
@[simp] theorem pushKey_dataA (c : Core w) (b : Byte) : (c.pushKey b).dataA = c.dataA := rfl
@[simp] theorem pushKey_dataB (c : Core w) (b : Byte) : (c.pushKey b).dataB = c.dataB := rfl
@[simp] theorem pushKey_keyBuf (c : Core w) (b : Byte) : (c.pushKey b).keyBuf = Memory.write c.keyBuf c.keyLen.toNat b := rfl
@[simp] theorem pushKey_table (c : Core w) (b : Byte) : (c.pushKey b).table = c.table := rfl
@[simp] theorem pushKey_pending (c : Core w) (b : Byte) : (c.pushKey b).pending = c.pending := rfl
@[simp] theorem pushKey_memDraw (c : Core w) (b : Byte) : (c.pushKey b).memDraw = c.memDraw := rfl

@[simp] theorem installKey_busy (c : Core w) (T : List (Word w)) (r : BitVec 16) : (c.installKey T r).busy = c.busy := rfl
@[simp] theorem installKey_done (c : Core w) (T : List (Word w)) (r : BitVec 16) : (c.installKey T r).done = c.done := rfl
@[simp] theorem installKey_ovr (c : Core w) (T : List (Word w)) (r : BitVec 16) : (c.installKey T r).ovr = c.ovr := rfl
@[simp] theorem installKey_keyValid (c : Core w) (T : List (Word w)) (r : BitVec 16) : (c.installKey T r).keyValid = true := rfl
@[simp] theorem installKey_err (c : Core w) (T : List (Word w)) (r : BitVec 16) : (c.installKey T r).err = c.err := rfl
@[simp] theorem installKey_doneIe (c : Core w) (T : List (Word w)) (r : BitVec 16) : (c.installKey T r).doneIe = c.doneIe := rfl
@[simp] theorem installKey_ovrIe (c : Core w) (T : List (Word w)) (r : BitVec 16) : (c.installKey T r).ovrIe = c.ovrIe := rfl
@[simp] theorem installKey_rounds (c : Core w) (T : List (Word w)) (r : BitVec 16) : (c.installKey T r).rounds = c.rounds := rfl
@[simp] theorem installKey_keyLen (c : Core w) (T : List (Word w)) (r : BitVec 16) : (c.installKey T r).keyLen = c.keyLen := rfl
@[simp] theorem installKey_rActive (c : Core w) (T : List (Word w)) (r : BitVec 16) : (c.installKey T r).rActive = r := rfl
@[simp] theorem installKey_dataA (c : Core w) (T : List (Word w)) (r : BitVec 16) : (c.installKey T r).dataA = c.dataA := rfl
@[simp] theorem installKey_dataB (c : Core w) (T : List (Word w)) (r : BitVec 16) : (c.installKey T r).dataB = c.dataB := rfl
@[simp] theorem installKey_keyBuf (c : Core w) (T : List (Word w)) (r : BitVec 16) : (c.installKey T r).keyBuf = c.keyBuf := rfl
@[simp] theorem installKey_table (c : Core w) (T : List (Word w)) (r : BitVec 16) : (c.installKey T r).table = Memory.writeAll c.table 0 T := rfl
@[simp] theorem installKey_pending (c : Core w) (T : List (Word w)) (r : BitVec 16) : (c.installKey T r).pending = c.pending := rfl
@[simp] theorem installKey_memDraw (c : Core w) (T : List (Word w)) (r : BitVec 16) : (c.installKey T r).memDraw = c.memDraw := rfl

@[simp] theorem putBlock_busy (c : Core w) (x : Word w × Word w) : (c.putBlock x).busy = c.busy := rfl
@[simp] theorem putBlock_done (c : Core w) (x : Word w × Word w) : (c.putBlock x).done = c.done := rfl
@[simp] theorem putBlock_ovr (c : Core w) (x : Word w × Word w) : (c.putBlock x).ovr = c.ovr := rfl
@[simp] theorem putBlock_keyValid (c : Core w) (x : Word w × Word w) : (c.putBlock x).keyValid = c.keyValid := rfl
@[simp] theorem putBlock_err (c : Core w) (x : Word w × Word w) : (c.putBlock x).err = c.err := rfl
@[simp] theorem putBlock_doneIe (c : Core w) (x : Word w × Word w) : (c.putBlock x).doneIe = c.doneIe := rfl
@[simp] theorem putBlock_ovrIe (c : Core w) (x : Word w × Word w) : (c.putBlock x).ovrIe = c.ovrIe := rfl
@[simp] theorem putBlock_rounds (c : Core w) (x : Word w × Word w) : (c.putBlock x).rounds = c.rounds := rfl
@[simp] theorem putBlock_keyLen (c : Core w) (x : Word w × Word w) : (c.putBlock x).keyLen = c.keyLen := rfl
@[simp] theorem putBlock_rActive (c : Core w) (x : Word w × Word w) : (c.putBlock x).rActive = c.rActive := rfl
@[simp] theorem putBlock_dataA (c : Core w) (x : Word w × Word w) : (c.putBlock x).dataA = x.1 := rfl
@[simp] theorem putBlock_dataB (c : Core w) (x : Word w × Word w) : (c.putBlock x).dataB = x.2 := rfl
@[simp] theorem putBlock_keyBuf (c : Core w) (x : Word w × Word w) : (c.putBlock x).keyBuf = c.keyBuf := rfl
@[simp] theorem putBlock_table (c : Core w) (x : Word w × Word w) : (c.putBlock x).table = c.table := rfl
@[simp] theorem putBlock_pending (c : Core w) (x : Word w × Word w) : (c.putBlock x).pending = c.pending := rfl
@[simp] theorem putBlock_memDraw (c : Core w) (x : Word w × Word w) : (c.putBlock x).memDraw = c.memDraw := rfl

@[simp] theorem putDataA_busy (c : Core w) (a : Word w) : (c.putDataA a).busy = c.busy := rfl
@[simp] theorem putDataA_done (c : Core w) (a : Word w) : (c.putDataA a).done = c.done := rfl
@[simp] theorem putDataA_ovr (c : Core w) (a : Word w) : (c.putDataA a).ovr = c.ovr := rfl
@[simp] theorem putDataA_keyValid (c : Core w) (a : Word w) : (c.putDataA a).keyValid = c.keyValid := rfl
@[simp] theorem putDataA_err (c : Core w) (a : Word w) : (c.putDataA a).err = c.err := rfl
@[simp] theorem putDataA_doneIe (c : Core w) (a : Word w) : (c.putDataA a).doneIe = c.doneIe := rfl
@[simp] theorem putDataA_ovrIe (c : Core w) (a : Word w) : (c.putDataA a).ovrIe = c.ovrIe := rfl
@[simp] theorem putDataA_rounds (c : Core w) (a : Word w) : (c.putDataA a).rounds = c.rounds := rfl
@[simp] theorem putDataA_keyLen (c : Core w) (a : Word w) : (c.putDataA a).keyLen = c.keyLen := rfl
@[simp] theorem putDataA_rActive (c : Core w) (a : Word w) : (c.putDataA a).rActive = c.rActive := rfl
@[simp] theorem putDataA_dataA (c : Core w) (a : Word w) : (c.putDataA a).dataA = a := rfl
@[simp] theorem putDataA_dataB (c : Core w) (a : Word w) : (c.putDataA a).dataB = c.dataB := rfl
@[simp] theorem putDataA_keyBuf (c : Core w) (a : Word w) : (c.putDataA a).keyBuf = c.keyBuf := rfl
@[simp] theorem putDataA_table (c : Core w) (a : Word w) : (c.putDataA a).table = c.table := rfl
@[simp] theorem putDataA_pending (c : Core w) (a : Word w) : (c.putDataA a).pending = c.pending := rfl
@[simp] theorem putDataA_memDraw (c : Core w) (a : Word w) : (c.putDataA a).memDraw = c.memDraw := rfl

@[simp] theorem putDataB_busy (c : Core w) (b : Word w) : (c.putDataB b).busy = c.busy := rfl
@[simp] theorem putDataB_done (c : Core w) (b : Word w) : (c.putDataB b).done = c.done := rfl
@[simp] theorem putDataB_ovr (c : Core w) (b : Word w) : (c.putDataB b).ovr = c.ovr := rfl
@[simp] theorem putDataB_keyValid (c : Core w) (b : Word w) : (c.putDataB b).keyValid = c.keyValid := rfl
@[simp] theorem putDataB_err (c : Core w) (b : Word w) : (c.putDataB b).err = c.err := rfl
@[simp] theorem putDataB_doneIe (c : Core w) (b : Word w) : (c.putDataB b).doneIe = c.doneIe := rfl
@[simp] theorem putDataB_ovrIe (c : Core w) (b : Word w) : (c.putDataB b).ovrIe = c.ovrIe := rfl
@[simp] theorem putDataB_rounds (c : Core w) (b : Word w) : (c.putDataB b).rounds = c.rounds := rfl
@[simp] theorem putDataB_keyLen (c : Core w) (b : Word w) : (c.putDataB b).keyLen = c.keyLen := rfl
@[simp] theorem putDataB_rActive (c : Core w) (b : Word w) : (c.putDataB b).rActive = c.rActive := rfl
@[simp] theorem putDataB_dataA (c : Core w) (b : Word w) : (c.putDataB b).dataA = c.dataA := rfl
@[simp] theorem putDataB_dataB (c : Core w) (b : Word w) : (c.putDataB b).dataB = b := rfl
@[simp] theorem putDataB_keyBuf (c : Core w) (b : Word w) : (c.putDataB b).keyBuf = c.keyBuf := rfl
@[simp] theorem putDataB_table (c : Core w) (b : Word w) : (c.putDataB b).table = c.table := rfl
@[simp] theorem putDataB_pending (c : Core w) (b : Word w) : (c.putDataB b).pending = c.pending := rfl
@[simp] theorem putDataB_memDraw (c : Core w) (b : Word w) : (c.putDataB b).memDraw = c.memDraw := rfl

@[simp] theorem clearFlags_busy (c : Core w) (v : Reg64) : (c.clearFlags v).busy = c.busy := rfl
@[simp] theorem clearFlags_done (c : Core w) (v : Reg64) : (c.clearFlags v).done = (c.done && !v.getLsbD 1) := rfl
@[simp] theorem clearFlags_ovr (c : Core w) (v : Reg64) : (c.clearFlags v).ovr = (c.ovr && !v.getLsbD 2) := rfl
@[simp] theorem clearFlags_keyValid (c : Core w) (v : Reg64) : (c.clearFlags v).keyValid = c.keyValid := rfl
@[simp] theorem clearFlags_err (c : Core w) (v : Reg64) : (c.clearFlags v).err = c.err := rfl
@[simp] theorem clearFlags_doneIe (c : Core w) (v : Reg64) : (c.clearFlags v).doneIe = c.doneIe := rfl
@[simp] theorem clearFlags_ovrIe (c : Core w) (v : Reg64) : (c.clearFlags v).ovrIe = c.ovrIe := rfl
@[simp] theorem clearFlags_rounds (c : Core w) (v : Reg64) : (c.clearFlags v).rounds = c.rounds := rfl
@[simp] theorem clearFlags_keyLen (c : Core w) (v : Reg64) : (c.clearFlags v).keyLen = c.keyLen := rfl
@[simp] theorem clearFlags_rActive (c : Core w) (v : Reg64) : (c.clearFlags v).rActive = c.rActive := rfl
@[simp] theorem clearFlags_dataA (c : Core w) (v : Reg64) : (c.clearFlags v).dataA = c.dataA := rfl
@[simp] theorem clearFlags_dataB (c : Core w) (v : Reg64) : (c.clearFlags v).dataB = c.dataB := rfl
@[simp] theorem clearFlags_keyBuf (c : Core w) (v : Reg64) : (c.clearFlags v).keyBuf = c.keyBuf := rfl
@[simp] theorem clearFlags_table (c : Core w) (v : Reg64) : (c.clearFlags v).table = c.table := rfl
@[simp] theorem clearFlags_pending (c : Core w) (v : Reg64) : (c.clearFlags v).pending = c.pending := rfl
@[simp] theorem clearFlags_memDraw (c : Core w) (v : Reg64) : (c.clearFlags v).memDraw = c.memDraw := rfl

@[simp] theorem putIrqEnable_busy (c : Core w) (v : Reg64) : (c.putIrqEnable v).busy = c.busy := rfl
@[simp] theorem putIrqEnable_done (c : Core w) (v : Reg64) : (c.putIrqEnable v).done = c.done := rfl
@[simp] theorem putIrqEnable_ovr (c : Core w) (v : Reg64) : (c.putIrqEnable v).ovr = c.ovr := rfl
@[simp] theorem putIrqEnable_keyValid (c : Core w) (v : Reg64) : (c.putIrqEnable v).keyValid = c.keyValid := rfl
@[simp] theorem putIrqEnable_err (c : Core w) (v : Reg64) : (c.putIrqEnable v).err = c.err := rfl
@[simp] theorem putIrqEnable_doneIe (c : Core w) (v : Reg64) : (c.putIrqEnable v).doneIe = v.getLsbD 1 := rfl
@[simp] theorem putIrqEnable_ovrIe (c : Core w) (v : Reg64) : (c.putIrqEnable v).ovrIe = v.getLsbD 2 := rfl
@[simp] theorem putIrqEnable_rounds (c : Core w) (v : Reg64) : (c.putIrqEnable v).rounds = c.rounds := rfl
@[simp] theorem putIrqEnable_keyLen (c : Core w) (v : Reg64) : (c.putIrqEnable v).keyLen = c.keyLen := rfl
@[simp] theorem putIrqEnable_rActive (c : Core w) (v : Reg64) : (c.putIrqEnable v).rActive = c.rActive := rfl
@[simp] theorem putIrqEnable_dataA (c : Core w) (v : Reg64) : (c.putIrqEnable v).dataA = c.dataA := rfl
@[simp] theorem putIrqEnable_dataB (c : Core w) (v : Reg64) : (c.putIrqEnable v).dataB = c.dataB := rfl
@[simp] theorem putIrqEnable_keyBuf (c : Core w) (v : Reg64) : (c.putIrqEnable v).keyBuf = c.keyBuf := rfl
@[simp] theorem putIrqEnable_table (c : Core w) (v : Reg64) : (c.putIrqEnable v).table = c.table := rfl
@[simp] theorem putIrqEnable_pending (c : Core w) (v : Reg64) : (c.putIrqEnable v).pending = c.pending := rfl
@[simp] theorem putIrqEnable_memDraw (c : Core w) (v : Reg64) : (c.putIrqEnable v).memDraw = c.memDraw := rfl

end Core

namespace State

@[simp] theorem setCore_params (s : State) (c : Core s.params.width) : (s.setCore c).params = s.params := rfl
@[simp] theorem setCore_core (s : State) (c : Core s.params.width) : (s.setCore c).core = c := rfl
@[simp] theorem setCore_env (s : State) (c : Core s.params.width) : (s.setCore c).env = s.env := rfl
@[simp] theorem setEnv_params (s : State) (e : Env) : (s.setEnv e).params = s.params := rfl
@[simp] theorem setEnv_core (s : State) (e : Env) : (s.setEnv e).core = s.core := rfl
@[simp] theorem setEnv_env (s : State) (e : Env) : (s.setEnv e).env = e := rfl
@[simp] theorem afterTurn_params (s : State) : s.afterTurn.params = s.params := rfl
@[simp] theorem afterTurn_core (s : State) : s.afterTurn.core = s.core := rfl
@[simp] theorem afterTurn_host (s : State) : s.afterTurn.env.host = s.env.host := rfl
@[simp] theorem afterTurn_turns (s : State) : s.afterTurn.env.turns = s.env.turns.tail := rfl
@[simp] theorem afterTurn_reads (s : State) : s.afterTurn.env.reads = s.env.reads := rfl
@[simp] theorem afterTurn_draws (s : State) : s.afterTurn.env.draws = s.env.draws := rfl

end State

/-- `complete(code)` after an effect always answers a next state. -/
@[simp] theorem State.completeWith_eq (s : State) (c : Core s.params.width) (e : ErrCode) :
    s.completeWith c e = .next (s.setCore (c.complete e)) := rfl

/-- `raise E(code)` always answers a next state. -/
@[simp] theorem State.raiseError_eq (s : State) (e : ErrCode) :
    s.raiseError e = .next (s.setCore (s.core.complete e)) := rfl

end Sys2Proof.Machine
end

