-- ==== Sys2Proof/Laws/Port.lean ====
section
/-! SUPPORT. Everything a RegWrite can do to the core, said once. -/

namespace Sys2Proof.Machine

variable {w : Nat}

/-- A RegWrite is ignored, clears flags, sets the enables, is an acceptance, stores a word of the block, or overruns. -/
inductive WriteEffect (c : Core w) : Nat → Reg64 → Core w → Prop
  | ignored (idx : Nat) (v : Reg64) (h : idx = 0 ∨ idx = 1 ∨ idx = 5 ∨ 8 ≤ idx) : WriteEffect c idx v c
  | statusClr (v : Reg64) : WriteEffect c 2 v (c.clearFlags v)
  | irqEn (v : Reg64) : WriteEffect c 3 v (c.putIrqEnable v)
  | cmd (v : Reg64) (h : c.busy = false) : WriteEffect c 4 v (c.accept v)
  | dataA (v : Reg64) (h : c.busy = false) : WriteEffect c 6 v (c.putDataA (v.setWidth w))
  | dataB (v : Reg64) (h : c.busy = false) : WriteEffect c 7 v (c.putDataB (v.setWidth w))
  | overrun (idx : Nat) (v : Reg64) (h : c.busy = true) (hi : idx = 4 ∨ idx = 6 ∨ idx = 7) :
      WriteEffect c idx v c.overrun

theorem writeRegister_effect (c : Core w) (idx : Nat) (v : Reg64) : WriteEffect c idx v (writeRegister c idx v) := by
  match idx with
  | 0 => exact .ignored _ _ (by simp)
  | 1 => exact .ignored _ _ (by simp)
  | 2 => exact .statusClr v
  | 3 => exact .irqEn v
  | 4 =>
    cases h : c.busy with
    | true => simpa [writeRegister, Core.writeCmd, h] using WriteEffect.overrun 4 v h (by simp)
    | false => simpa [writeRegister, Core.writeCmd, h] using WriteEffect.cmd v h
  | 5 => exact .ignored _ _ (by simp)
  | 6 =>
    cases h : c.busy with
    | true => simpa [writeRegister, Core.writeDataA, h] using WriteEffect.overrun 6 v h (by simp)
    | false => simpa [writeRegister, Core.writeDataA, h] using WriteEffect.dataA v h
  | 7 =>
    cases h : c.busy with
    | true => simpa [writeRegister, Core.writeDataB, h] using WriteEffect.overrun 7 v h (by simp)
    | false => simpa [writeRegister, Core.writeDataB, h] using WriteEffect.dataB v h
  | n + 8 => exact .ignored _ _ (by omega)

end Sys2Proof.Machine
end

