-- ==== Sys2Proof/Laws/Step.lean ====
section
/-! SUPPORT. What a command can do, and what one step can do, said once for every later proof. -/

namespace Sys2Proof.Machine

/-- The effect of a command that completes without error: the core before `complete(ERR_NONE)`. -/
inductive Effect (s : State) : Instr → Core s.params.width → Prop
  | nop : Effect s .nop s.core
  | setRounds (n : Nat) (h : n ≤ s.params.rMax) : Effect s (.setRounds n) (s.core.putRounds n)
  | clearKey : Effect s .clearKey s.core.clearKey
  | pushKey (b : Nat) (h : s.core.keyLen.toNat ≠ s.params.bMax) :
      Effect s (.pushKey b) (s.core.pushKey (BitVec.ofNat 8 b))
  | expandKey (h : ¬ (s.core.keyLen = 0 ∧ s.params.emptyKey = .reject)) :
      Effect s .expandKey (s.core.installKey (expandedKey s) s.core.rounds)
  | encrypt (h : s.core.keyValid = true) :
      Effect s .encrypt (s.core.putBlock (encryptBlock s.core.tableWord s.core.block s.core.rActive.toNat))
  | decrypt (h : s.core.keyValid = true) :
      Effect s .decrypt (s.core.putBlock (decryptBlock s.core.tableWord s.core.block s.core.rActive.toNat))

/-- When a command raises which error of its own (60_exceptions R220). -/
inductive Raises (s : State) : Instr → ErrCode → Prop
  | range (n : Nat) (h : s.params.rMax < n) : Raises s (.setRounds n) .range
  | keyFull (b : Nat) (h : s.core.keyLen.toNat = s.params.bMax) : Raises s (.pushKey b) .keyFull
  | emptyKey (h : s.core.keyLen = 0 ∧ s.params.emptyKey = .reject) : Raises s .expandKey .emptyKey
  | encryptNoKey (h : s.core.keyValid = false) : Raises s .encrypt .noKey
  | decryptNoKey (h : s.core.keyValid = false) : Raises s .decrypt .noKey

/-- Everything a command can do: complete with its effect, or raise its error and change nothing else. -/
theorem exec_cases (i : Instr) (s : State) :
    (∃ c, Effect s i c ∧ exec i s = .next (s.setCore (c.complete .noError))) ∨
    (∃ e, Raises s i e ∧ exec i s = .next (s.setCore (s.core.complete e))) := by
  cases i with
  | nop => exact .inl ⟨_, .nop, rfl⟩
  | setRounds n =>
    by_cases h : s.params.rMax < n
    · exact .inr ⟨_, .range n h, by simp [exec, execSetRounds, h]⟩
    · exact .inl ⟨_, .setRounds n (by omega), by simp [exec, execSetRounds, h]⟩
  | clearKey => exact .inl ⟨_, .clearKey, rfl⟩
  | pushKey b =>
    by_cases h : s.core.keyLen.toNat = s.params.bMax
    · exact .inr ⟨_, .keyFull b h, by simp [exec, execPushKey, h]⟩
    · exact .inl ⟨_, .pushKey b h, by simp [exec, execPushKey, h]⟩
  | expandKey =>
    by_cases h : s.core.keyLen = 0 ∧ s.params.emptyKey = .reject
    · exact .inr ⟨_, .emptyKey h, by simp [exec, execExpandKey, h]⟩
    · exact .inl ⟨_, .expandKey h, by simp only [exec, execExpandKey, if_neg h, State.completeWith_eq]⟩
  | encrypt =>
    cases h : s.core.keyValid with
    | false => exact .inr ⟨_, .encryptNoKey h, by simp [exec, execEncrypt, h]⟩
    | true => exact .inl ⟨_, .encrypt h, by simp [exec, execEncrypt, h]⟩
  | decrypt =>
    cases h : s.core.keyValid with
    | false => exact .inr ⟨_, .decryptNoKey h, by simp [exec, execDecrypt, h]⟩
    | true => exact .inl ⟨_, .decrypt h, by simp [exec, execDecrypt, h]⟩

/-- Everything a step can do to the core. -/
inductive CoreStep (s : State) : Core s.params.width → Prop
  /-- A read, a wait, or an agent that makes no step. -/
  | same : CoreStep s s.core
  /-- The host's RegWrite. -/
  | write (idx : Nat) (v : Reg64) (hw : registerWrite? s = some (idx, v)) : CoreStep s (writeRegister s.core idx v)
  /-- The completion of an illegal word. -/
  | illegal (v : Reg64) (why : Illegal) (turn : nextTurn s = .core) (busy : s.core.busy = true)
      (word : s.core.pending = some v) (dec : decode v = .illegal why) : CoreStep s (s.core.complete .illegal)
  /-- The completion of a command without error. -/
  | effect (v : Reg64) (i : Instr) (c : Core s.params.width) (turn : nextTurn s = .core) (busy : s.core.busy = true)
      (word : s.core.pending = some v) (dec : decode v = .cmd i) (eff : Effect s i c) :
      CoreStep s (c.complete .noError)
  /-- The completion of a command with its error. -/
  | error (v : Reg64) (i : Instr) (e : ErrCode) (turn : nextTurn s = .core) (busy : s.core.busy = true)
      (word : s.core.pending = some v) (dec : decode v = .cmd i) (err : Raises s i e) :
      CoreStep s (s.core.complete e)
  /-- Reset. -/
  | reset (turn : nextTurn s = .reset) : CoreStep s (Core.afterReset s.params.width s.env.draws)

/-- A command's meaning reads the configuration and the core only. -/
theorem exec_setEnv (i : Instr) (s : State) (e : Env) :
    (∃ c, Effect s i c ∧ exec i (s.setEnv e) = .next ((s.setCore (c.complete .noError)).setEnv e)) ∨
    (∃ x, Raises s i x ∧ exec i (s.setEnv e) = .next ((s.setCore (s.core.complete x)).setEnv e)) := by
  rcases exec_cases i (s.setEnv e) with ⟨c, hc, h⟩ | ⟨x, hx, h⟩
  · refine .inl ⟨c, ?_, h⟩
    cases hc with
    | nop => exact .nop
    | setRounds n hn => exact .setRounds n hn
    | clearKey => exact .clearKey
    | pushKey b hb => exact .pushKey b hb
    | expandKey hk => exact .expandKey hk
    | encrypt hk => exact .encrypt hk
    | decrypt hk => exact .decrypt hk
  · refine .inr ⟨x, ?_, h⟩
    cases hx with
    | range n hn => exact .range n hn
    | keyFull b hb => exact .keyFull b hb
    | emptyKey hk => exact .emptyKey hk
    | encryptNoKey hk => exact .encryptNoKey hk
    | decryptNoKey hk => exact .decryptNoKey hk

/-- A step runs only under a legal configuration, never changes the configuration, and does one of `CoreStep`'s things to the
core. -/
theorem step_cases {s t : State} (h : step s = .next t) :
    s.params.legal = true ∧ ∃ c e, t = (s.setCore c).setEnv e ∧ CoreStep s c := by
  unfold step stepOf at h
  split at h
  swap
  · exact absurd h (by simp)
  next hl =>
  refine ⟨hl, ?_⟩
  cases ht : nextTurn s with
  | host =>
    rw [ht] at h
    simp only [takeTurn, hostTurn] at h
    split at h
    · cases h; exact ⟨_, _, rfl, .same⟩
    · next op rest hh =>
      cases op with
      | read idx => cases h; exact ⟨_, _, rfl, .same⟩
      | write idx v => cases h; exact ⟨_, _, rfl, .write idx v (by simp [registerWrite?, ht, show s.env.host = _ from hh])⟩
      | wait => cases h; exact ⟨_, _, rfl, .same⟩
      | waitIrq => cases h; exact ⟨_, _, rfl, .same⟩
      | busRead a b =>
        simp only [hostOp] at h
        split at h
        · cases h; exact ⟨_, _, rfl, .same⟩
        · exact absurd h (by simp)
      | busWrite a b v =>
        simp only [hostOp] at h
        split at h
        · next idx hx =>
          cases h
          exact ⟨_, _, rfl, .write idx v (by simp [registerWrite?, ht, show s.env.host = _ from hh, show busIndex? s.params a b = _ from hx])⟩
        · exact absurd h (by simp)
  | core =>
    rw [ht] at h
    simp only [takeTurn, coreTurn, State.afterTurn_core] at h
    split at h
    · next v hb hp =>
      simp only [completeWord] at h
      split at h
      · next why hd => cases h; exact ⟨_, _, rfl, .illegal v why ht hb hp hd⟩
      · next i hd =>
        rcases exec_setEnv i s { s.env with turns := s.env.turns.tail } with ⟨c, hc, hx⟩ | ⟨x, hr, hx⟩
        · rw [State.afterTurn, hx] at h
          cases h
          exact ⟨_, _, rfl, .effect v i c ht hb hp hd hc⟩
        · rw [State.afterTurn, hx] at h
          cases h
          exact ⟨_, _, rfl, .error v i x ht hb hp hd hr⟩
    · cases h; exact ⟨_, _, rfl, .same⟩
  | reset =>
    rw [ht] at h
    cases h
    exact ⟨_, _, rfl, .reset ht⟩

end Sys2Proof.Machine
end

