-- ==== Sys2Proof/Tests/Slice0.lean ====
section
/-! SUPPORT. Tests of the model, expected values from spec/95_test_vectors.md and the encodings of spec/30_encoding.md, and for each
statement with hypotheses a concrete witness that meets them. -/

namespace Sys2Proof.Machine.Tests

open Sys2Proof Sys2Proof.Machine

/-! ## Small states -/

/-- RC5CORE-16, -32, -64 with the default configuration. -/
abbrev p16 : Params := Params.default 16
abbrev p32 : Params := Params.default 32
abbrev p64 : Params := Params.default 64

/-- RC5CORE-16 with `EMPTY_KEY_POLICY = REJECT` and `B_MAX = 2`. -/
abbrev p16r : Params := { p16 with emptyKey := .reject, bMax := 2 }

/-- RC5CORE-16 right after reset. -/
abbrev idle16 : Core 16 := Core.afterReset 16 0

/-- The core after KS-3: key [1, 2, 3], r = 1 expanded, block (1, 2). -/
abbrev keyed16 : Core 16 :=
  { idle16 with
    rounds := 1, rActive := 1, keyLen := 3, keyValid := true, dataA := 1, dataB := 2
    keyBuf := [(0, 1), (1, 2), (2, 3)], table := [(0, 0x1836), (1, 0x086E), (2, 0x968A), (3, 0xB732)] }

/-- The core `c` with the command word `v` in flight. -/
abbrev flight (v : Reg64) (c : Core 16) : Core 16 := { c with busy := true, done := false, pending := some v }

/-- The instance `p` with core `c`, host operations `ops` and turns `ts`. -/
abbrev at_ (p : Params) (c : Core p.width) (ops : List HostOp) (ts : List Turn) : State :=
  { params := p, core := c, env := { host := ops, turns := ts, reads := [], draws := 1 } }

/-- RC5CORE-16 about to complete `v` on `c`. -/
abbrev fly (v : Reg64) (c : Core 16) : State := at_ p16 (flight v c) [] []

/-- The result is a next state with property `f`. -/
def passes (r : Result) (f : State → Bool) : Bool :=
  match r with
  | .next t => f t
  | .fault _ => false
  | .refused _ => false

/-- One step from `s` answers a next state with property `f`. -/
def steps (s : State) (f : State → Bool) : Bool := passes (step s) f

/-- What STATUS and INFO read (no free value is needed). -/
def status (s : State) : Reg64 := s.core.statusWord
def info (s : State) : Reg64 := s.core.infoWord

/-! ## Well-formedness, decoding, encoding -/

theorem test_setRounds_65536_is_ill_formed : (Instr.setRounds 65536).wellFormed = false := by decide
theorem test_setRounds_65535_is_well_formed : (Instr.setRounds 65535).wellFormed = true := by decide
theorem test_pushKey_256_is_ill_formed : (Instr.pushKey 256).wellFormed = false := by decide
theorem test_pushKey_255_is_well_formed : (Instr.pushKey 255).wellFormed = true := by decide

/-- R109: the assembler has no line for them. -/
theorem test_no_line_for_ill_formed : lineCommand? (.setRounds 65536) = none ∧ lineCommand? (.pushKey 256) = none := by decide

/- R101 to R105, the words as RSV1 | IMM16 | RSV0 | OPC. -/
theorem test_decode_nop :
    decode (0b00000000000000000000000000000000#32 ++ 0b0000000000000000#16 ++ 0b00000000#8 ++ 0b00000000#8) = .cmd .nop := by
  decide
theorem test_decode_setRounds :
    decode (0b00000000000000000000000000000000#32 ++ 0b1000000000001100#16 ++ 0b00000000#8 ++ 0b00000001#8) =
      .cmd (.setRounds 32780) := by decide
theorem test_decode_clearKey :
    decode (0b00000000000000000000000000000000#32 ++ 0b0000000000000000#16 ++ 0b00000000#8 ++ 0b00000010#8) =
      .cmd .clearKey := by decide
theorem test_decode_pushKey :
    decode (0b00000000000000000000000000000000#32 ++ 0b0000000011110101#16 ++ 0b00000000#8 ++ 0b00000011#8) =
      .cmd (.pushKey 245) := by decide
theorem test_decode_expandKey :
    decode (0b00000000000000000000000000000000#32 ++ 0b0000000000000000#16 ++ 0b00000000#8 ++ 0b00000100#8) =
      .cmd .expandKey := by decide
theorem test_decode_encrypt :
    decode (0b00000000000000000000000000000000#32 ++ 0b0000000000000000#16 ++ 0b00000000#8 ++ 0b00000101#8) =
      .cmd .encrypt := by decide
theorem test_decode_decrypt :
    decode (0b00000000000000000000000000000000#32 ++ 0b0000000000000000#16 ++ 0b00000000#8 ++ 0b00000110#8) =
      .cmd .decrypt := by decide

/-- CM-6, CM-7, CM-8, CM-9: illegal words. -/
theorem test_decode_illegal :
    decode 0x0000000000000007 = .illegal .reservedOpcode ∧ decode 0x0000000000010000 = .illegal .immediate ∧
    decode 0x0000000001000003 = .illegal .immediate ∧ decode 0x0000000100000005 = .illegal .reservedBits ∧
    decode 0x0000000000000105 = .illegal .reservedBits ∧ decode 0xFFFFFFFFFFFFFFFF = .illegal .reservedBits := by decide

/-- The opcode table's words run on the host's two entry points. -/
theorem test_table_words :
    decodeTableWord 64 0x00000000000C0001 = some (.setRounds 12) ∧ decodeTableWord 64 0x0000000000000006 = some .decrypt ∧
    decodeTableWord 64 0x0000000000000007 = none := by decide
theorem test_withFetchWord_runs_the_word :
    steps (State.reset.withFetchWord 64 0x00000000000C0001) (fun t => t.core.rounds == 12 && status t == 2) = true := by decide

/-! ## Arithmetic, the key schedule, the round functions -/

/-- AR-1 to AR-4. -/
theorem test_rotations :
    rotl (0x8001 : Word 16) 17 = 0x0003 ∧ rotr (0x8001 : Word 16) 17 = 0xC000 ∧
    rotl (0x80000001 : Word 32) 32 = 0x80000001 ∧ rotl (0x0123456789ABCDEF : Word 64) 68 = 0x123456789ABCDEF0 := by decide

/-- PK-1, PK-2, PK-3. -/
theorem test_pack :
    pack 16 [2, 5, 4, 42, 87, 245] = [0x0502, 0x2A04, 0xF557] ∧ pack 32 [2, 5, 4, 42, 87, 245] = [0x2A040502, 0x0000F557] ∧
    pack 64 [2, 5, 4, 42, 87, 245] = [0x0000F5572A040502] := by decide

/-- PK-8, PK-9. -/
theorem test_pack_edges :
    pack 64 [255, 255, 255, 255, 255, 255, 255, 255, 255] = [0xFFFFFFFFFFFFFFFF, 0x00000000000000FF] ∧ pack 32 [] = [0] := by
  decide

/-- SD-1. -/
theorem test_seed : seed (defaultP 32) (defaultQ 32) 4 = [0xB7E15163, 0x5618CB1C, 0xF45044D5, 0x9287BE8E] := by decide

/-- KS-2: W = 32, key [1, 2, 3, 4, 5], r = 1. -/
theorem test_key_schedule_32 :
    keySchedule p32.magicP p32.magicQ [1, 2, 3, 4, 5] 1 = [0x3289E221, 0x1B11E1A9, 0x8E4A0B03, 0x6E949434] := by
  decide +kernel

/-- KS-3: W = 16, key [1, 2, 3], r = 1. -/
theorem test_key_schedule_16 :
    keySchedule p16.magicP p16.magicQ [1, 2, 3] 1 = [0x1836, 0x086E, 0x968A, 0xB732] := by decide +kernel

/-- EN-19: W = 64, the empty key, whose table is all 0 (KS-6), r = 12. -/
theorem test_encrypt_64 :
    encryptBlock (fun _ => (0 : Word 64)) (1, 2) 12 = (0xE00200000E00EE0C, 0xC00200000200C200) := by decide +kernel

/-! ## Commands, one step each -/

/-- CM-13: after an error, NOP leaves ERR = 0. -/
theorem test_nop : steps (fly 0 { idle16 with err := 2 }) (fun t => status t == 0x2) = true := by decide

/-- CM-5. -/
theorem test_setRounds_255 : steps (fly 0x00FF0001 idle16) (fun t => status t == 0x2 && info t == 0xFF) = true := by decide

/-- CM-4. -/
theorem test_setRounds_256 : steps (fly 0x01000001 idle16) (fun t => status t == 0x302 && info t == 0) = true := by decide

/-- CM-19: the key stays valid. -/
theorem test_clearKey :
    steps (fly 0x2 keyed16) (fun t => status t == 0xA && t.core.keyLen == 0 && t.core.keyBuf.length == 3) = true := by decide

/-- CM-10, third push with B_MAX = 2. -/
theorem test_pushKey_full :
    steps (at_ p16r { flight 0x30003 idle16 with keyLen := 2, keyBuf := [(0, 1), (1, 2)] } [] [])
      (fun t => t.core.err == 4 && t.core.keyLen == 2 && t.core.keyBuf == [(0, 1), (1, 2)]) = true := by decide

/-- CM-10, second push. -/
theorem test_pushKey :
    steps (at_ p16r { flight 0x20003 idle16 with keyLen := 1, keyBuf := [(0, 1)] } [] [])
      (fun t => t.core.err == 0 && t.core.keyLen == 2 && t.core.keyBuf == [(0, 1), (1, 2)]) = true := by decide

/-- CM-11. -/
theorem test_expandKey_rejects_the_empty_key :
    steps (at_ p16r (flight 0x4 idle16) [] []) (fun t => status t == 0x502) = true := by decide

/-- KS-3 by the command: S, R_ACTIVE and KEY_VALID. -/
theorem test_expandKey :
    steps (fly 0x4 { keyed16 with keyValid := false, rActive := 0, table := [] })
      (fun t => status t == 0xA && info t == 0x100030001 &&
        decide ((List.range 4).map t.core.tableWord = [0x1836, 0x086E, 0x968A, 0xB732].map (BitVec.ofNat t.params.width))) =
        true := by decide +kernel

/-- CM-3. -/
theorem test_encrypt_without_key :
    steps (fly 0x5 { idle16 with dataA := 7 }) (fun t => status t == 0x202 && t.core.dataA.toNat == 7) = true := by decide

/-- EN-1; ROUNDS = 0 is staged and not used (PR-4). -/
theorem test_encrypt :
    steps (fly 0x5 { keyed16 with rounds := 0 })
      (fun t => status t == 0xA && t.core.dataA.toNat == 0xA6D1 && t.core.dataB.toNat == 0x1475) = true := by decide

/-- EN-1, the other way. -/
theorem test_decrypt :
    steps (fly 0x6 { keyed16 with dataA := 0xA6D1, dataB := 0x1475 })
      (fun t => status t == 0xA && t.core.dataA.toNat == 1 && t.core.dataB.toNat == 2) = true := by decide

/-- CM-9: an illegal word, checked before ERR_NO_KEY. -/
theorem test_illegal_word : steps (fly 0x100000005 idle16) (fun t => status t == 0x102) = true := by decide

/-! ## Registers -/

/-- CM-1. -/
theorem test_id : idWord p16 = 0x00000100FF00FF10 ∧ idWord p32 = 0x00000100FF00FF20 ∧ idWord p64 = 0x00000100FF00FF40 := by
  decide

/-- CM-14: with DONE_IE, DONE raises irq; STATUS_CLR bit 1 drops both. -/
theorem test_irq :
    ({ idle16 with done := true, doneIe := true } : Core 16).irq = true ∧
    (writeRegister { idle16 with done := true, doneIe := true } 2 0x2).irq = false ∧
    (writeRegister { idle16 with done := true, doneIe := true } 2 0x2).done = false := by decide

/-- CM-15. -/
theorem test_dataA_truncates :
    readRegister p32 (writeRegister (Core.afterReset 32 0) 6 0xFFFFFFFF12345678) 0 6 = 0x12345678 := by decide

/-- CM-16, CM-17, CM-18. -/
theorem test_reserved_accesses :
    readRegister p16 keyed16 0 4 = 0 ∧ readRegister p16 keyed16 0 2 = 0 ∧ readRegister p16 keyed16 0 9 = 0 ∧
    writeRegister keyed16 9 5 = keyed16 ∧ writeRegister keyed16 5 0x1234 = keyed16 := by decide

/-- R75: a four-byte access, and one between two registers, are refused. -/
theorem test_narrow_access_is_refused :
    step (at_ p16 idle16 [.busRead 0 4] []) = .refused .notWholeRegisterAccess ∧
    step (at_ p16 idle16 [.busWrite 4 8 0] []) = .refused .notWholeRegisterAccess := ⟨rfl, rfl⟩

/-- R9: W = 8 and B_MAX = 0 are refused. -/
theorem test_illegal_configuration_is_refused :
    step (State.resetOf (Params.default 8)) = .refused .illegalConfiguration ∧
    step (State.resetOf { p16 with bMax := 0 }) = .refused .illegalConfiguration := ⟨rfl, rfl⟩

/-- R260: a reset during a command abandons it. -/
theorem test_reset_abandons_the_command :
    steps (at_ p16 (flight 0x4 keyed16) [] [.reset])
      (fun t => status t == 0 && info t == 0 && t.core.pending == none && t.core.memDraw == 1) = true := by decide

/-! ## Witnesses: each statement's hypotheses are met together -/

theorem witness_DecodeEncodeRoundTrip :
    (Instr.setRounds 0).wellFormed = true ∧ (Instr.setRounds 65535).wellFormed = true ∧ (Instr.pushKey 255).wellFormed = true := by
  decide

theorem witness_EncodeDecodeRoundTrip : ∃ v i, decode v = .cmd i := ⟨0xFFFF0001, .setRounds 65535, by decide⟩

theorem witness_LegalExactlyWhenOneRowCovers :
    (∃ v i, decode v = .cmd i) ∧ ∃ v, ∃ r ∈ opcodeMap, r.covers v = true :=
  ⟨⟨0x4, .expandKey, by decide⟩, 0xFFFF0001, (Instr.setRounds 0).row, by decide, by decide⟩

theorem witness_IllegalWordsCompleteWithErrIllegal :
    (fly 0x7 keyed16).core.busy = true ∧ (fly 0x7 keyed16).core.pending = some 0x7 ∧
    decode 0x7 = .illegal .reservedOpcode := by decide

theorem witness_StepRunsTheDecodedCommand :
    p16.legal = true ∧ nextTurn (fly 0x5 keyed16) = .core ∧ (fly 0x5 keyed16).core.busy = true ∧
    (fly 0x5 keyed16).core.pending = some 0x5 ∧ decode 0x5 = .cmd .encrypt := by decide

theorem witness_CompletionFollowsTheLifeCycle :
    (at_ p16 keyed16 [] []).core.busy = false ∧ (fly 0x5 keyed16).core.busy = true ∧
    (fly 0x5 keyed16).core.pending = some 0x5 ∧ decode 0x5 = .cmd .encrypt ∧ decode 0xFF = .illegal .reservedOpcode := by decide

theorem witness_CommandAcceptance :
    p16.legal = true ∧ nextTurn (at_ p16 keyed16 [.write 4 0xFF] []) = .host ∧
    (at_ p16 keyed16 [.write 4 0xFF] []).env.host = .write 4 0xFF :: [] ∧ keyed16.busy = false := by decide

theorem witness_OverrunDropsTheWrite :
    p16.legal = true ∧ (flight 0x4 keyed16).busy = true ∧
    ∀ idx ∈ [4, 6, 7], nextTurn (at_ p16 (flight 0x4 keyed16) [.write idx 9] [.host]) = .host := by decide

/-- One state for each clause: unchanged, acceptance, completion, reset. -/
theorem witness_BusyChangesOnlyByTheLifeCycle :
    (∃ t, step (at_ p16 keyed16 [.read 1] []) = .next t ∧ t.core.busy = false) ∧
    (∃ t, step (at_ p16 keyed16 [.write 4 5] []) = .next t ∧ t.core.pending = some 5) ∧
    (∃ t, step (fly 0x2 keyed16) = .next t ∧ t.core.busy = false) ∧
    (∃ t, step (at_ p16 (flight 0x2 keyed16) [] [.reset]) = .next t ∧ t.core.pending = none) ∧
    keyed16.busy = keyed16.pending.isSome ∧ (flight 0x2 keyed16).busy = (flight 0x2 keyed16).pending.isSome :=
  ⟨⟨_, rfl, by decide⟩, ⟨_, rfl, by decide⟩, ⟨_, rfl, by decide⟩, ⟨_, rfl, by decide⟩, by decide, by decide⟩

/-- OVR set by a DATA_B write in flight; cleared by STATUS_CLR and by reset. -/
theorem witness_OverrunFlagIsSticky :
    (∃ t, step (at_ p16 (flight 0x2 keyed16) [.write 7 0] [.host]) = .next t ∧ keyed16.ovr = false ∧ t.core.ovr = true) ∧
    (∃ t, step (at_ p16 { keyed16 with ovr := true } [.write 2 4] []) = .next t ∧ t.core.ovr = false) ∧
    (∃ t, step (at_ p16 { keyed16 with ovr := true } [] [.reset]) = .next t ∧ t.core.ovr = false) :=
  ⟨⟨_, rfl, by decide, by decide⟩, ⟨_, rfl, by decide⟩, ⟨_, rfl, by decide⟩⟩

theorem witness_CommandsEnd :
    p16.legal = true ∧ (flight 0x4 keyed16).busy = (flight 0x4 keyed16).pending.isSome ∧
    (∀ op ∈ [HostOp.wait, .write 4 5, .waitIrq, .busRead 8 8], op.whole p16 = true) := by decide

theorem witness_BothOrdersOfARace :
    p16.legal = true ∧ (flight 0x4 keyed16).busy = true ∧ (flight 0x4 keyed16).pending = some 0x4 ∧
    decode 0x4 = .cmd .expandKey ∧ (at_ p16 (flight 0x4 keyed16) [.write 6 5] []).env.host = .write 6 5 :: [] := by decide

theorem witness_NopOnlyCompletes :
    keyed16.busy = false ∧ (0x10000 : Reg64).toNat % 2 ^ 8 = 0 ∧ (0x10000 : Reg64) ≠ 0 := by decide

theorem witness_SetRoundsStagesTheCount :
    p16.legal = true ∧ 0 ≤ p16.rMax ∧ 255 ≤ p16.rMax ∧ p16.rMax < 256 ∧ p16.rMax < 65535 := by decide

theorem witness_PushKeyAppendsAByte :
    p16r.legal = true ∧ 0 ≤ 255 ∧ 255 ≤ 255 ∧ idle16.keyLen.toNat < p16r.bMax ∧
    ({ idle16 with keyLen := 1 } : Core 16).keyLen.toNat < p16r.bMax ∧
    ({ idle16 with keyLen := 2 } : Core 16).keyLen.toNat = p16r.bMax := by decide

theorem witness_ExpandKeyInstallsTheSchedule :
    ¬ (keyed16.keyLen = 0 ∧ p16.emptyKey = .reject) ∧ ¬ (idle16.keyLen = 0 ∧ p16.emptyKey = .reject) ∧
    (idle16.keyLen = 0 ∧ p16r.emptyKey = .reject) := by decide

theorem witness_EncryptReplacesTheBlock : keyed16.keyValid = true ∧ idle16.keyValid = false := by decide
theorem witness_DecryptReplacesTheBlock : keyed16.keyValid = true ∧ idle16.keyValid = false := by decide
theorem witness_ArithmeticIsModular : 0 < 1 ∧ 0 < 64 := by decide

theorem witness_ZeroRounds :
    ({ keyed16 with rActive := 0 } : Core 16).keyValid = true ∧ ({ keyed16 with rActive := 0 } : Core 16).rActive = 0 := by decide

theorem witness_EncryptAndDecryptAreInverse :
    keyed16.keyValid = true ∧
    ∀ i ∈ [Instr.nop, .setRounds 0, .clearKey, .pushKey 1], i ≠ .expandKey ∧ i ≠ .encrypt ∧ i ≠ .decrypt := by decide

theorem witness_PackClosedForm : 0 < 1 ∧ 0 < 8 := by decide

theorem witness_PackIsLittleEndian : 0 < 2 ∧ 2 < ([1, 2, 3] : List Byte).length ∧ ([1, 2, 3] : List Byte).length ≤ 3 := by decide

theorem witness_KeyWordCountIsInRange :
    p16r.legal = true ∧ ({ idle16 with keyLen := 2 } : Core 16).keyLen.toNat ≤ p16r.bMax ∧
    ({ idle16 with keyLen := 2 } : Core 16).keyLen ≠ 0 ∧ idle16.keyLen.toNat ≤ p16r.bMax ∧ p16r.emptyKey = .reject ∧ idle16.keyLen = 0 := by decide

theorem witness_SeedClosedForm : 0 < 2 ∧ 0 + 1 < 2 ∧ 1 < 2 := by decide

theorem witness_MixIsTheSpecsLoop :
    0 < 2 ∧ 0 < 3 ∧ ([0, 0] : List (Word 16)).length = 2 ∧ ([1, 2, 3] : List (Word 16)).length = 3 ∧ 1 < 2 := by decide

theorem witness_MixVisitsEveryIndex :
    ∃ m : MixState 16, 0 < 3 ∧ m.i = 0 ∧ m.j = 0 ∧ 2 < max (2 * (0 + 1)) 3 ∧ 1 < min (2 * (0 + 1)) 3 :=
  ⟨{ sub := [0, 0], key := [1, 2, 3], a := 0, b := 0, i := 0, j := 0 }, by decide⟩

theorem witness_MixRotationAmounts : ∀ w ∈ [16, 32, 64], w = 16 ∨ w = 32 ∨ w = 64 := by decide

theorem witness_ZeroKeyUnderZeroConstants :
    (∀ b ∈ ([] : List Byte), b = 0) ∧ (∀ b ∈ ([0, 0] : List Byte), b = 0) ∧ 0 < 2 * (0 + 1) := by decide

theorem witness_IdentificationFields :
    p16.legal = true ∧ p64.legal = true ∧ ({ p16 with rMax := 65535, bMax := 65535 } : Params).legal = true ∧
    ({ p16 with rMax := 0, bMax := 1 } : Params).legal = true := by decide

theorem witness_DataRegisters : p16.legal = true ∧ keyed16.busy = false ∧ (flight 0x4 keyed16).busy = true := by decide

theorem witness_ReservedAccesses :
    p16.legal = true ∧ nextTurn (at_ p16 keyed16 [.read 8] []) = .host ∧ nextTurn (at_ p16 keyed16 [.write 8 1] []) = .host ∧
    (∀ idx ∈ [0, 1, 5, 8], idx = 0 ∨ idx = 1 ∨ idx = 5 ∨ 8 ≤ idx) ∧ (∀ idx ∈ [2, 4, 8], idx = 2 ∨ idx = 4 ∨ 8 ≤ idx) ∧
    (∀ idx ∈ [2, 3], idx = 2 ∨ idx = 3) := by decide

theorem witness_ReadsChangeNothing :
    p16.legal = true ∧ nextTurn (at_ p16 keyed16 [.read 6] []) = .host ∧ keyed16.busy = false ∧
    nextTurn (at_ p16 (flight 0x4 keyed16) [.read 5] [.host]) = .host ∧ 5 ≠ 6 ∧ 5 ≠ 7 := by decide

theorem witness_WriteIdempotence : keyed16.busy = false := by decide

theorem witness_BusAccesses :
    p16.legal = true ∧ 0 < p16.regStride ∧ nextTurn (at_ p16 keyed16 [] []) = .host ∧
    p16.baseAddr + p16.regStride * 7 = 56 ∧ 4 ≠ 8 ∧ ∀ n, 57 ≠ p16.baseAddr + p16.regStride * n :=
  ⟨by decide, by decide, by decide, by decide, by decide, fun n => by simp only [Params.default]; omega⟩

theorem witness_WaitPollsStatus :
    p16.legal = true ∧ nextTurn (at_ p16 keyed16 [.wait] []) = .host ∧
    nextTurn (at_ p16 (flight 0x4 keyed16) [.wait, .read 6] [.host]) = .host := by decide

/-- A completion with each of ERR's six codes. -/
theorem witness_ErrorCodes :
    (∃ t, coreTurn (fly 0x0 keyed16) = .next t ∧ t.core.err = 0) ∧
    (∃ t, coreTurn (fly 0x7 keyed16) = .next t ∧ t.core.err = 1) ∧
    (∃ t, coreTurn (fly 0x6 idle16) = .next t ∧ t.core.err = 2) ∧
    (∃ t, coreTurn (fly 0x01000001 idle16) = .next t ∧ t.core.err = 3) ∧
    (∃ t, coreTurn (at_ p16r { flight 0x3 idle16 with keyLen := 2 } [] []) = .next t ∧ t.core.err = 4) ∧
    (∃ t, coreTurn (at_ p16r (flight 0x4 idle16) [] []) = .next t ∧ t.core.err = 5) :=
  ⟨⟨_, rfl, by decide⟩, ⟨_, rfl, by decide⟩, ⟨_, rfl, by decide⟩, ⟨_, rfl, by decide⟩, ⟨_, rfl, by decide⟩, ⟨_, rfl, by decide⟩⟩

theorem witness_ErrorsArePrecise :
    (∃ t, coreTurn (fly 0x6 idle16) = .next t ∧ t.core.err ≠ 0) ∧
    (flight 0x4 keyed16).busy = true ∧ nextTurn (at_ p16 (flight 0x4 keyed16) [.write 6 1] [.host]) = .host ∧
    ∃ t, step (at_ p16 (flight 0x4 keyed16) [.write 6 1] [.host]) = .next t :=
  ⟨⟨_, rfl, by decide⟩, by decide, by decide, _, rfl⟩

/-- Both refusals occur. -/
theorem witness_NoTraps :
    step (at_ p16 idle16 [.busRead 0 4] []) = .refused .notWholeRegisterAccess ∧
    step (State.resetOf (Params.default 8)) = .refused .illegalConfiguration := ⟨rfl, rfl⟩

theorem witness_InterruptLine : (6 : Reg64).getLsbD 1 = true ∧ (6 : Reg64).getLsbD 2 = true := by decide

theorem witness_ResetSetsEveryValue :
    p16.legal = true ∧ nextTurn (at_ p16 (flight 0x4 keyed16) [.read 1] [.reset]) = .reset := by decide

theorem witness_ConfigurationIsFixed : ∃ t, step (at_ p16 keyed16 [] [.reset]) = .next t := ⟨_, rfl⟩

/-- One step for each clause: unchanged, EXPAND_KEY, reset. -/
theorem witness_OnlyExpandKeyReplacesTheKey :
    (∃ c' e', step (at_ p16 keyed16 [.write 6 1] []) = .next ⟨p16, c', e'⟩) ∧
    (∃ c' e', step (fly 0x4 keyed16) = .next ⟨p16, c', e'⟩) ∧
    (∃ c' e', step (at_ p16 keyed16 [] [.reset]) = .next ⟨p16, c', e'⟩) :=
  ⟨⟨_, _, rfl⟩, ⟨_, _, rfl⟩, ⟨_, _, rfl⟩⟩

/-- One step for each clause: SET_ROUNDS, CLEAR_KEY, PUSH_KEY, reset. -/
theorem witness_OnlyTheirCommandsChangeTheStagedKey :
    (∃ t, step (fly 0x00FF0001 keyed16) = .next t) ∧ (∃ t, step (fly 0x2 keyed16) = .next t) ∧
    (∃ t, step (fly 0xFF0003 keyed16) = .next t) ∧ (∃ t, step (at_ p16 keyed16 [] [.reset]) = .next t) :=
  ⟨⟨_, rfl⟩, ⟨_, rfl⟩, ⟨_, rfl⟩, ⟨_, rfl⟩⟩

/-- One step for each clause: completion, acceptance, STATUS_CLR, IRQ_EN, reset. -/
theorem witness_OnlyTheirEventsChangeTheFlags :
    (∃ t, step (fly 0x6 idle16) = .next t ∧ t.core.done = true ∧ t.core.err = 2) ∧
    (∃ t, step (at_ p16 { keyed16 with done := true } [.write 4 0] []) = .next t ∧ t.core.done = false) ∧
    (∃ t, step (at_ p16 { keyed16 with done := true } [.write 2 2] []) = .next t ∧ t.core.done = false) ∧
    (∃ t, step (at_ p16 keyed16 [.write 3 4] []) = .next t ∧ t.core.ovrIe ≠ keyed16.ovrIe) ∧
    (∃ t, step (at_ p16 { keyed16 with done := true, err := 1, doneIe := true } [] [.reset]) = .next t ∧ t.core.done = false) :=
  ⟨⟨_, rfl, by decide, by decide⟩, ⟨_, rfl, by decide⟩, ⟨_, rfl, by decide⟩, ⟨_, rfl, by decide⟩, ⟨_, rfl, by decide⟩⟩

/-- One step for each clause: unchanged, DATA_A, DATA_B, ENCRYPT, DECRYPT, reset. -/
theorem witness_OnlyTheirEventsChangeTheBlock :
    (∃ c' e', step (at_ p16 keyed16 [.read 6] []) = .next ⟨p16, c', e'⟩) ∧
    (∃ c' e', step (at_ p16 keyed16 [.write 6 9] []) = .next ⟨p16, c', e'⟩) ∧
    (∃ c' e', step (at_ p16 keyed16 [.write 7 9] []) = .next ⟨p16, c', e'⟩) ∧
    (∃ c' e', step (fly 0x5 keyed16) = .next ⟨p16, c', e'⟩) ∧ (∃ c' e', step (fly 0x6 keyed16) = .next ⟨p16, c', e'⟩) ∧
    (∃ c' e', step (at_ p16 keyed16 [] [.reset]) = .next ⟨p16, c', e'⟩) :=
  ⟨⟨_, _, rfl⟩, ⟨_, _, rfl⟩, ⟨_, _, rfl⟩, ⟨_, _, rfl⟩, ⟨_, _, rfl⟩, ⟨_, _, rfl⟩⟩

theorem witness_ResetHasTheInvariants : p16.legal = true ∧ p32.legal = true ∧ p64.legal = true := by decide

/-- A state with a valid key meets the invariant, and it steps. -/
theorem witness_StepKeepsTheInvariants : (fly 0x5 keyed16).Inv ∧ ∃ t, step (fly 0x5 keyed16) = .next t := by
  refine ⟨⟨by decide, ⟨by decide, by decide, by decide, by decide, by decide, fun _ => ?_, by decide, by decide, by decide,
    by decide, by decide, by decide⟩⟩, _, rfl⟩
  exact ⟨[1, 2, 3], by decide, by decide, by decide +kernel⟩

/-- Two cores that differ in an unstaged KEYBUF byte, in a table word past the key's, and in the reset draw; both step. -/
theorem witness_HiddenMemoryCannotBeSeen :
    SameVisible (flight 0x5 keyed16)
      { flight 0x5 keyed16 with
        keyBuf := [(0, 1), (1, 2), (2, 3), (3, 99)]
        table := [(0, 0x1836), (1, 0x086E), (2, 0x968A), (3, 0xB732), (4, 7)]
        memDraw := 5 } ∧
    (∃ c' e', step (fly 0x5 keyed16) = .next ⟨p16, c', e'⟩) ∧
    step (at_ p16 idle16 [.busRead 0 4] []) = .refused .notWholeRegisterAccess :=
  ⟨⟨rfl, rfl, rfl, rfl, rfl, rfl, rfl, rfl, rfl, rfl, rfl, rfl, rfl, by decide, fun _ => by decide⟩, ⟨_, _, rfl⟩, rfl⟩

end Sys2Proof.Machine.Tests
end

section
/-! PROOFS. R11's primitives as formulas on unbounded integers (00_scope). -/

namespace Sys2Proof.Machine

variable {w : Nat}

/-- R11's `-`: subtraction is the integers' difference modulo `2^W`. -/
theorem toNat_sub_eq_int_emod (x y : Word w) :
    ((x - y).toNat : Int) = ((x.toNat : Int) - y.toNat) % 2 ^ w := by
  have hy : y.toNat ≤ 2 ^ w := y.isLt.le
  rw [BitVec.toNat_sub]
  push_cast [hy]
  rw [show (2 ^ w - y.toNat + x.toNat : Int) = (x.toNat - y.toNat) + 2 ^ w by ring, Int.add_emod_right]

/-- Two opposite shifts of a word, joined: the modulus of the formula cuts the left shift only, for the right shift of
a word stays below `2^W`. -/
theorem toNat_shiftLeft_or_shiftRight (x : Word w) (k m : Nat) :
    ((x <<< k) ||| (x >>> m)).toNat = ((x.toNat <<< k) ||| (x.toNat >>> m)) % 2 ^ w := by
  have hright : (x.toNat >>> m) % 2 ^ w = x.toNat >>> m :=
    Nat.mod_eq_of_lt ((Nat.shiftRight_le _ _).trans_lt x.isLt)
  rw [Nat.or_mod_two_pow, hright, BitVec.toNat_or, BitVec.toNat_shiftLeft, BitVec.toNat_ushiftRight]

/-- R11's `rotl` on unbounded integers. -/
theorem toNat_rotl (x : Word w) (n : Nat) :
    (rotl x n).toNat = if n % w = 0 then x.toNat
      else ((x.toNat <<< (n % w)) ||| (x.toNat >>> (w - n % w))) % 2 ^ w := by
  unfold rotl
  split
  · rfl
  · exact toNat_shiftLeft_or_shiftRight x _ _

/-- R11's `rotr` on unbounded integers. -/
theorem toNat_rotr (x : Word w) (n : Nat) :
    (rotr x n).toNat = if n % w = 0 then x.toNat
      else ((x.toNat >>> (n % w)) ||| (x.toNat <<< (w - n % w))) % 2 ^ w := by
  unfold rotr
  split
  · rfl
  · rw [BitVec.or_comm, Nat.or_comm]
    exact toNat_shiftLeft_or_shiftRight x _ _

/-- Settles O21: the sum and the exclusive or are the library's, the difference and the two rotations are the
lemmas above; none of the five needs the width to be positive. -/
theorem arithmeticIsModular : Obligations.ArithmeticIsModular := by
  intro w x y n _
  exact ⟨BitVec.toNat_add x y, toNat_sub_eq_int_emod x y, BitVec.toNat_xor x y, toNat_rotl x n, toNat_rotr x n⟩

end Sys2Proof.Machine
end

section
/-! PROOFS. Reset has the state invariants of 10_state R56, and every step keeps them. -/

namespace Sys2Proof

theorem Params.legal_iff (p : Params) :
    p.legal = true ↔
      (p.width = 16 ∨ p.width = 32 ∨ p.width = 64) ∧ p.rMax ≤ 65535 ∧ 1 ≤ p.bMax ∧ p.bMax ≤ 65535 := by
  simp [Params.legal, and_assoc, or_assoc]

namespace Machine

variable {w : Nat}

theorem keySchedule_length (P Q : Word w) (K : List Byte) (r : Nat) : (keySchedule P Q K r).length = 2 * (r + 1) := by
  rw [keySchedule, mix, (mixLoop_lengths ..).1, seed_length]

@[simp] theorem expandedKey_length (s : State) : (expandedKey s).length = 2 * (s.core.rounds.toNat + 1) :=
  keySchedule_length ..

theorem Core.stagedKey_length (c : Core w) : c.stagedKey.length = c.keyLen.toNat := by simp [Core.stagedKey]

theorem ErrCode.bits_le (e : ErrCode) : e.bits.toNat ≤ 5 := by cases e <;> decide

namespace CoreInv

variable {p : Params} {c : Core p.width}

theorem afterReset (p : Params) (draw : Nat) : CoreInv p (Core.afterReset p.width draw) where
  busy_iff := rfl
  done_idle _ := rfl
  rounds_le := Nat.zero_le _
  rActive_le := Nat.zero_le _
  keyLen_le := Nat.zero_le _
  key_valid h := absurd h Bool.false_ne_true
  staged i h := absurd h (Nat.not_lt_zero i)
  keyBuf_wf := rfl
  table_wf := rfl
  keyBuf_below := rfl
  table_below := rfl
  err_le := Nat.zero_le _

theorem complete (h : CoreInv p c) (e : ErrCode) : CoreInv p (c.complete e) :=
  { h with busy_iff := rfl, done_idle := fun _ => rfl, err_le := e.bits_le }

theorem accept (h : CoreInv p c) (v : Reg64) : CoreInv p (c.accept v) :=
  { h with busy_iff := rfl, done_idle := fun hd => absurd hd Bool.false_ne_true }

theorem clearFlags (h : CoreInv p c) (v : Reg64) : CoreInv p (c.clearFlags v) :=
  { h with done_idle := fun hd => h.done_idle (Bool.and_elim_left hd) }

/-- A RegWrite keeps the invariants: of the fields they speak of, it changes DONE, BUSY and PENDING at most. -/
theorem writeRegister (h : CoreInv p c) (idx : Nat) (v : Reg64) : CoreInv p (writeRegister c idx v) := by
  have hw := writeRegister_effect c idx v
  generalize Machine.writeRegister c idx v = c' at hw
  cases hw with
  | ignored => exact h
  | statusClr => exact h.clearFlags v
  | irqEn => exact { h with }
  | cmd => exact h.accept v
  | dataA => exact { h with }
  | dataB => exact { h with }
  | overrun => exact { h with }

theorem putRounds (h : CoreInv p c) {n : Nat} (hn : n ≤ p.rMax) : CoreInv p (c.putRounds n) :=
  { h with rounds_le := (BitVec.toNat_ofNat n 16).trans_le ((Nat.mod_le n (2 ^ 16)).trans hn) }

theorem clearKey (h : CoreInv p c) : CoreInv p c.clearKey :=
  { h with
    keyLen_le := Nat.zero_le _
    staged := fun i hi => absurd hi (Nat.not_lt_zero i) }

/-- Below B_MAX, which fits in 16 bits, KEYLEN grows without wrapping and the new byte lies in KEYBUF. -/
theorem pushKey (h : CoreInv p c) (hlegal : p.legal = true) (hfull : c.keyLen.toNat ≠ p.bMax) (b : Byte) :
    CoreInv p (c.pushKey b) := by
  obtain ⟨-, -, -, hb⟩ := p.legal_iff.1 hlegal
  have hlt : c.keyLen.toNat < p.bMax := Nat.lt_of_le_of_ne h.keyLen_le hfull
  have hlen : (c.keyLen + 1).toNat = c.keyLen.toNat + 1 :=
    BitVec.toNat_add_of_lt (show c.keyLen.toNat + 1 < 2 ^ 16 by omega)
  refine { h with keyLen_le := ?_, staged := fun i hi => ?_, keyBuf_wf := ?_, keyBuf_below := ?_ }
  · rw [Core.pushKey_keyLen, hlen]; exact hlt
  · rw [Core.pushKey_keyLen, hlen] at hi
    rw [Core.pushKey_keyBuf, Memory.read?_write]
    split
    · rfl
    · exact h.staged i (by omega)
  · exact Memory.wf_write _ _ _ h.keyBuf_wf
  · exact Memory.below_write _ _ hlt h.keyBuf_below

end CoreInv

/-- After EXPAND_KEY, S holds the ExpandedKey of the staged key. -/
theorem holdsExpandedKey_installKey (s : State) (hlen : s.core.keyLen.toNat ≤ s.params.bMax)
    (hempty : ¬ (s.core.keyLen = 0 ∧ s.params.emptyKey = .reject)) :
    HoldsExpandedKey s.params (s.core.installKey (expandedKey s) s.core.rounds) := by
  refine ⟨s.core.stagedKey, s.core.stagedKey_length ▸ hlen, fun hnil => ?_, fun i hi => ?_⟩
  · have hzero : s.core.keyLen = 0 := by
      apply BitVec.eq_of_toNat_eq
      rw [← s.core.stagedKey_length, hnil]
      rfl
    cases hp : s.params.emptyKey with
    | zeroWord => rfl
    | reject => exact absurd ⟨hzero, hp⟩ hempty
  · rw [Core.installKey_table, Memory.read?_writeAll, if_pos]
    · rfl
    · simpa using hi

theorem CoreInv.installKey {s : State} (h : CoreInv s.params s.core)
    (hempty : ¬ (s.core.keyLen = 0 ∧ s.params.emptyKey = .reject)) :
    CoreInv s.params (s.core.installKey (expandedKey s) s.core.rounds) :=
  { h with
    rActive_le := h.rounds_le
    key_valid := fun _ => holdsExpandedKey_installKey s h.keyLen_le hempty
    table_wf := Memory.wf_writeAll _ _ _ h.table_wf
    table_below := Memory.below_writeAll _ _
      (by have := h.rounds_le; simp only [expandedKey_length, Params.tMax]; omega) h.table_below }

/-- What a command does before its completion keeps the invariants. -/
theorem CoreInv.effect {s : State} {i : Instr} {c : Core s.params.width} (h : s.Inv) (heff : Effect s i c) :
    CoreInv s.params c := by
  obtain ⟨hlegal, hcore⟩ := h
  cases heff with
  | nop => exact hcore
  | setRounds n hn => exact hcore.putRounds hn
  | clearKey => exact hcore.clearKey
  | pushKey b hfull => exact hcore.pushKey hlegal hfull _
  | expandKey hempty => exact hcore.installKey hempty
  | encrypt => exact { hcore with }
  | decrypt => exact { hcore with }

/-- Whatever a step does to the core keeps its invariants. -/
theorem CoreInv.coreStep {s : State} {c : Core s.params.width} (h : s.Inv) (hstep : CoreStep s c) :
    CoreInv s.params c := by
  cases hstep with
  | same => exact h.core
  | write idx v => exact h.core.writeRegister idx v
  | illegal => exact h.core.complete _
  | effect v i c _ _ _ _ heff => exact (CoreInv.effect h heff).complete _
  | error => exact h.core.complete _
  | reset => exact CoreInv.afterReset _ _

/-- Settles O57: nothing is staged, no key is valid and no word is in flight, so every clause holds at once. -/
theorem resetHasTheInvariants : Obligations.ResetHasTheInvariants :=
  have hreset : ∀ p : Params, p.legal = true → (State.resetOf p).Inv :=
    fun p hlegal => ⟨hlegal, CoreInv.afterReset p 0⟩
  ⟨hreset (Params.default 64) (by decide), hreset⟩

/-- Settles O58, by cases on what a step can do to the core; the configuration stays as it was. -/
theorem stepKeepsTheInvariants : Obligations.StepKeepsTheInvariants := by
  intro s t h hstep
  obtain ⟨hlegal, c, e, rfl, hcore⟩ := step_cases hstep
  exact ⟨hlegal, CoreInv.coreStep (s := s) h hcore⟩

end Machine

end Sys2Proof
end

section
/-! PROOFS. Two cores that agree on what can be seen make the same step (10_state R51, R52, R57). -/

namespace Sys2Proof.Machine

variable {w : Nat}

/-! ## What the round functions read -/

/-- Encrypt with `r` rounds reads S[0 .. 2*r+1] only. -/
theorem encryptBlock_congr {S S' : Nat → Word w} {r : Nat} (h : ∀ i, i < 2 * (r + 1) → S i = S' i)
    (ab : Word w × Word w) : encryptBlock S ab r = encryptBlock S' ab r := by
  induction r with
  | zero => simp only [encryptBlock, h 0 (by omega), h 1 (by omega)]
  | succ n ih =>
    have hround : ∀ x, encryptRound S (n + 1) x = encryptRound S' (n + 1) x := fun x => by
      simp only [encryptRound, h (2 * (n + 1)) (by omega), h (2 * (n + 1) + 1) (by omega)]
    rw [encryptBlock, encryptBlock, ih (fun i hi => h i (by omega)), hround]

/-- Decrypt with `r` rounds reads S[0 .. 2*r+1] only. -/
theorem decryptBlock_congr {S S' : Nat → Word w} {r : Nat} (h : ∀ i, i < 2 * (r + 1) → S i = S' i)
    (ab : Word w × Word w) : decryptBlock S ab r = decryptBlock S' ab r := by
  induction r generalizing ab with
  | zero => simp only [decryptBlock, h 0 (by omega), h 1 (by omega)]
  | succ n ih =>
    have hround : decryptRound S (n + 1) ab = decryptRound S' (n + 1) ab := by
      simp only [decryptRound, h (2 * (n + 1)) (by omega), h (2 * (n + 1) + 1) (by omega)]
    rw [decryptBlock, decryptBlock, hround, ih (fun i hi => h i (by omega))]

/-! ## What reads and commands see -/

namespace SameVisible

variable {c d : Core w}

protected theorem refl (c : Core w) : SameVisible c c :=
  ⟨rfl, rfl, rfl, rfl, rfl, rfl, rfl, rfl, rfl, rfl, rfl, rfl, rfl, fun _ _ => rfl, fun _ _ _ => rfl⟩

theorem irq_eq (h : SameVisible c d) : c.irq = d.irq := by simp only [Core.irq, h.done, h.doneIe, h.ovr, h.ovrIe]

theorem readDraws_eq (h : SameVisible c d) (idx : Nat) : c.readDraws idx = d.readDraws idx := by
  rw [Core.readDraws, Core.readDraws, h.busy]

theorem stagedKey_eq (h : SameVisible c d) : c.stagedKey = d.stagedKey := by
  rw [Core.stagedKey, Core.stagedKey, ← h.keyLen]
  exact List.map_congr_left fun i hi => h.staged i (List.mem_range.1 hi)

theorem block_eq (h : SameVisible c d) : c.block = d.block := by rw [Core.block, Core.block, h.dataA, h.dataB]

theorem encryptBlock_eq (h : SameVisible c d) (hk : c.keyValid = true) :
    encryptBlock c.tableWord c.block c.rActive.toNat = encryptBlock d.tableWord d.block d.rActive.toNat := by
  rw [encryptBlock_congr (h.table hk), h.block_eq, h.rActive]

theorem decryptBlock_eq (h : SameVisible c d) (hk : c.keyValid = true) :
    decryptBlock c.tableWord c.block c.rActive.toNat = decryptBlock d.tableWord d.block d.rActive.toNat := by
  rw [decryptBlock_congr (h.table hk), h.block_eq, h.rActive]

/-! ## The core's updates keep the agreement -/

theorem complete (h : SameVisible c d) (e : ErrCode) : SameVisible (c.complete e) (d.complete e) :=
  { h with busy := rfl, done := rfl, err := rfl, pending := rfl }

theorem putRounds (h : SameVisible c d) (n : Nat) : SameVisible (c.putRounds n) (d.putRounds n) :=
  { h with rounds := rfl }

theorem clearKey (h : SameVisible c d) : SameVisible c.clearKey d.clearKey :=
  { h with keyLen := rfl, staged := fun i hi => absurd hi (Nat.not_lt_zero i) }

/-- The byte pushed is the same, and the bytes staged before it agreed already. -/
theorem pushKey (h : SameVisible c d) (b : Byte) : SameVisible (c.pushKey b) (d.pushKey b) := by
  refine { h with keyLen := ?_, staged := fun i hi => ?_ }
  · rw [Core.pushKey_keyLen, Core.pushKey_keyLen, h.keyLen]
  · rw [Core.keyByte_pushKey, Core.keyByte_pushKey, ← h.keyLen]
    split
    · rfl
    · next hne =>
      have hle : (c.keyLen + 1).toNat ≤ c.keyLen.toNat + 1 := (BitVec.toNat_add ..).trans_le (Nat.mod_le _ _)
      rw [Core.pushKey_keyLen] at hi
      exact h.staged i (by omega)

/-- All words up to 2*R_ACTIVE+1 are new, so nothing of the old table shows. -/
theorem installKey (h : SameVisible c d) {T : List (Word w)} {r : BitVec 16} (hT : T.length = 2 * (r.toNat + 1)) :
    SameVisible (c.installKey T r) (d.installKey T r) := by
  refine { h with keyValid := rfl, rActive := rfl, table := fun _ i hi => ?_ }
  have hlt : i < T.length := hT ▸ hi
  rw [Core.tableWord_installKey, Core.tableWord_installKey, List.getElem?_eq_getElem hlt, Option.getD_some,
    Option.getD_some]

theorem putBlock (h : SameVisible c d) (x : Word w × Word w) : SameVisible (c.putBlock x) (d.putBlock x) :=
  { h with dataA := rfl, dataB := rfl }

theorem accept (h : SameVisible c d) (v : Reg64) : SameVisible (c.accept v) (d.accept v) :=
  { h with busy := rfl, done := rfl, pending := rfl }

theorem overrun (h : SameVisible c d) : SameVisible c.overrun d.overrun := { h with ovr := rfl }

theorem putDataA (h : SameVisible c d) (a : Word w) : SameVisible (c.putDataA a) (d.putDataA a) :=
  { h with dataA := rfl }

theorem putDataB (h : SameVisible c d) (b : Word w) : SameVisible (c.putDataB b) (d.putDataB b) :=
  { h with dataB := rfl }

theorem clearFlags (h : SameVisible c d) (v : Reg64) : SameVisible (c.clearFlags v) (d.clearFlags v) :=
  { h with
    done := by rw [Core.clearFlags_done, Core.clearFlags_done, h.done]
    ovr := by rw [Core.clearFlags_ovr, Core.clearFlags_ovr, h.ovr] }

theorem putIrqEnable (h : SameVisible c d) (v : Reg64) : SameVisible (c.putIrqEnable v) (d.putIrqEnable v) :=
  { h with doneIe := rfl, ovrIe := rfl }

end SameVisible

/-- A write to a register that takes it only with BUSY = 0. -/
theorem SameVisible.ifBusy {c d c' d' : Core w} (h : SameVisible c d) (h' : SameVisible c' d') :
    SameVisible (if c.busy then c.overrun else c') (if d.busy then d.overrun else d') := by
  rw [← h.busy]
  split
  · exact h.overrun
  · exact h'

theorem SameVisible.writeRegister {c d : Core w} (h : SameVisible c d) (idx : Nat) (v : Reg64) :
    SameVisible (writeRegister c idx v) (writeRegister d idx v) :=
  match idx with
  | 0 | 1 | 5 | _ + 8 => h
  | 2 => h.clearFlags v
  | 3 => h.putIrqEnable v
  | 4 => h.ifBusy (h.accept v)
  | 6 => h.ifBusy (h.putDataA _)
  | 7 => h.ifBusy (h.putDataB _)

/-- No register shows KEYBUF, S or the reset draw, so cores that agree on the rest read the same. -/
theorem SameVisible.readRegister_eq {p : Params} {c d : Core p.width} (h : SameVisible c d) (draw idx : Nat) :
    readRegister p c draw idx = readRegister p d draw idx :=
  match idx with
  | 0 | 2 | 4 | _ + 8 => rfl
  | 1 => by simp only [readRegister, Core.statusWord, h.busy, h.done, h.ovr, h.keyValid, h.err]
  | 3 => by simp only [readRegister, Core.irqEnableWord, h.doneIe, h.ovrIe]
  | 5 => by simp only [readRegister, Core.infoWord, h.rounds, h.keyLen, h.rActive]
  | 6 => by simp only [readRegister, Core.dataWord, h.busy, h.dataA]
  | 7 => by simp only [readRegister, Core.dataWord, h.busy, h.dataB]

/-! ## The agents -/

/-- Two results that cannot be told apart: the same refusal, or next states of the same configuration with the same host's
side and cores that agree on what can be seen. -/
inductive SameOutcome (p : Params) : Result → Result → Prop
  | next {c d : Core p.width} (e : Env) (h : SameVisible c d) : SameOutcome p (.next ⟨p, c, e⟩) (.next ⟨p, d, e⟩)
  | refused (r : Refusal) : SameOutcome p (.refused r) (.refused r)

section Agents

variable {p : Params} {c d : Core p.width}

theorem SameOutcome.next_of_eq (h : SameVisible c d) {e f : Env} (he : e = f) :
    SameOutcome p (.next ⟨p, c, e⟩) (.next ⟨p, d, f⟩) := he ▸ .next e h

theorem exec_sameOutcome (h : SameVisible c d) (i : Instr) (e : Env) :
    SameOutcome p (exec i ⟨p, c, e⟩) (exec i ⟨p, d, e⟩) := by
  cases i with
  | nop => exact .next e (h.complete _)
  | setRounds n =>
    simp only [exec, execSetRounds]
    split
    · exact .next e (h.complete _)
    · exact .next e ((h.putRounds n).complete _)
  | clearKey => exact .next e (h.clearKey.complete _)
  | pushKey b =>
    simp only [exec, execPushKey, ← h.keyLen]
    split
    · exact .next e (h.complete _)
    · exact .next e ((h.pushKey _).complete _)
  | expandKey =>
    simp only [exec, execExpandKey, expandedKey, ← h.keyLen, ← h.rounds, ← h.stagedKey_eq]
    split
    · exact .next e (h.complete _)
    · exact .next e ((h.installKey (keySchedule_length ..)).complete _)
  | encrypt =>
    simp only [exec, execEncrypt, ← h.keyValid]
    split
    · exact .next e (h.complete _)
    · next hk =>
      rw [← h.encryptBlock_eq (by simpa using hk)]
      exact .next e ((h.putBlock _).complete _)
  | decrypt =>
    simp only [exec, execDecrypt, ← h.keyValid]
    split
    · exact .next e (h.complete _)
    · next hk =>
      rw [← h.decryptBlock_eq (by simpa using hk)]
      exact .next e ((h.putBlock _).complete _)

theorem coreTurn_sameOutcome (h : SameVisible c d) (e : Env) :
    SameOutcome p (coreTurn ⟨p, c, e⟩) (coreTurn ⟨p, d, e⟩) := by
  simp only [coreTurn, ← h.busy, ← h.pending]
  split
  · next v _ _ =>
    unfold completeWord
    split
    · exact .next e (h.complete _)
    · next i _ => exact exec_sameOutcome h i e
  · exact .next e h

theorem resetTurn_sameOutcome (c d : Core p.width) (e : Env) :
    SameOutcome p (resetTurn ⟨p, c, e⟩) (resetTurn ⟨p, d, e⟩) := .next _ (.refl _)

/-- The host gets the same value, and the next draw has the same number. -/
theorem hostRead_env_eq (h : SameVisible c d) (e : Env) (idx : Nat) :
    (hostRead ⟨p, c, e⟩ idx).env = (hostRead ⟨p, d, e⟩ idx).env := by
  simp only [hostRead, State.setEnv_env, h.readRegister_eq, h.readDraws_eq]

theorem hostOp_sameOutcome (h : SameVisible c d) (e : Env) (op : HostOp) :
    SameOutcome p (hostOp ⟨p, c, e⟩ op) (hostOp ⟨p, d, e⟩ op) := by
  cases op with
  | read idx => exact .next_of_eq h (hostRead_env_eq h e idx)
  | write idx v => exact .next e (h.writeRegister idx v)
  | wait => exact .next_of_eq h (by simp only [hostRead_env_eq h e 1, h.busy])
  | waitIrq => exact .next_of_eq h (by simp only [h.irq_eq])
  | busRead addr bytes =>
    simp only [hostOp]
    split
    · next idx _ => exact .next_of_eq h (hostRead_env_eq h e idx)
    · exact .refused _
  | busWrite addr bytes v =>
    simp only [hostOp]
    split
    · next idx _ => exact .next e (h.writeRegister idx v)
    · exact .refused _

theorem hostTurn_sameOutcome (h : SameVisible c d) (e : Env) :
    SameOutcome p (hostTurn ⟨p, c, e⟩) (hostTurn ⟨p, d, e⟩) := by
  simp only [hostTurn]
  split
  · exact .next e h
  · next op rest _ => exact hostOp_sameOutcome h { e with host := rest } op

theorem nextTurn_eq (h : SameVisible c d) (e : Env) : nextTurn ⟨p, c, e⟩ = nextTurn ⟨p, d, e⟩ := by
  simp only [nextTurn, h.busy]

theorem step_sameOutcome (h : SameVisible c d) (e : Env) : SameOutcome p (step ⟨p, c, e⟩) (step ⟨p, d, e⟩) := by
  simp only [step, stepOf, ← nextTurn_eq h e]
  split
  · cases nextTurn ⟨p, c, e⟩ with
    | host => exact hostTurn_sameOutcome h _
    | core => exact coreTurn_sameOutcome h _
    | reset => exact resetTurn_sameOutcome c d _
  · exact .refused _

end Agents

theorem SameOutcome.exists_next {p : Params} {r r' : Result} (h : SameOutcome p r r') {c : Core p.width} {e : Env}
    (hr : r = .next ⟨p, c, e⟩) : ∃ d, r' = .next ⟨p, d, e⟩ ∧ SameVisible c d := by
  cases h with
  | next f hs => cases hr; exact ⟨_, rfl, hs⟩
  | refused => cases hr

theorem SameOutcome.refused_right {p : Params} {r r' : Result} (h : SameOutcome p r r') {x : Refusal}
    (hr : r = .refused x) : r' = .refused x := by
  cases h with
  | next => cases hr
  | refused => exact hr

/-- Settles O59: the two steps' results cannot be told apart, whichever agent moves. -/
theorem hiddenMemoryCannotBeSeen : Obligations.HiddenMemoryCannotBeSeen := by
  intro p c d e h
  have hstep := step_sameOutcome h e
  exact ⟨fun c' e' hnext => hstep.exists_next hnext, fun r hrefused => hstep.refused_right hrefused⟩

end Sys2Proof.Machine
end

section
/-! PROOFS. Which event changes which piece of the core (10_state R38, R41 to R52): by cases on what a step is. -/

namespace Sys2Proof.Machine

@[simp] theorem Core.keyByte_complete {w : Nat} (c : Core w) (e : ErrCode) (i : Nat) :
    (c.complete e).keyByte i = c.keyByte i := rfl

@[simp] theorem Core.tableWord_complete {w : Nat} (c : Core w) (e : ErrCode) (i : Nat) :
    (c.complete e).tableWord i = c.tableWord i := rfl

/-- How the completion of a decoded word ends: the core just before `complete(code)`, and the code. -/
inductive Completes (s : State) : Decoded → Core s.params.width → ErrCode → Prop
  | illegal (why : Illegal) : Completes s (.illegal why) s.core .illegal
  | effect {i : Instr} {c : Core s.params.width} (h : Effect s i c) : Completes s (.cmd i) c .noError
  | error {i : Instr} {e : ErrCode} (h : Raises s i e) : Completes s (.cmd i) s.core e

/-- What a step is, with the core it leaves: nothing for the core, a RegWrite, a completion, or reset. -/
inductive StepEvent (s : State) : Core s.params.width → Prop
  | same : StepEvent s s.core
  | write (idx : Nat) (v : Reg64) (c : Core s.params.width) (hw : registerWrite? s = some (idx, v))
      (heff : WriteEffect s.core idx v c) : StepEvent s c
  | completion (d : Decoded) (c : Core s.params.width) (code : ErrCode) (turn : nextTurn s = .core)
      (busy : s.core.busy = true) (hd : completing? s = some d) (hc : Completes s d c code) :
      StepEvent s (c.complete code)
  | reset (turn : nextTurn s = .reset) : StepEvent s (Core.afterReset s.params.width s.env.draws)

/-- The word in flight completes at the core's turn with BUSY = 1. -/
theorem completing?_eq_some {s : State} {v : Reg64} (turn : nextTurn s = .core) (busy : s.core.busy = true)
    (word : s.core.pending = some v) : completing? s = some (decode v) := by
  rw [completing?, if_pos ⟨turn, busy⟩, word, Option.map_some]

theorem CoreStep.event {s : State} {c : Core s.params.width} (h : CoreStep s c) : StepEvent s c := by
  cases h with
  | same => exact .same
  | write idx v hw => exact .write idx v _ hw (writeRegister_effect s.core idx v)
  | illegal v why turn busy word dec =>
    exact .completion _ _ _ turn busy (dec ▸ completing?_eq_some turn busy word) (.illegal why)
  | effect v i c turn busy word dec eff =>
    exact .completion _ _ _ turn busy (dec ▸ completing?_eq_some turn busy word) (.effect eff)
  | error v i e turn busy word dec err =>
    exact .completion _ _ _ turn busy (dec ▸ completing?_eq_some turn busy word) (.error err)
  | reset turn => exact .reset turn

theorem step_event {s t : State} (h : step s = .next t) :
    ∃ c e, t = (s.setCore c).setEnv e ∧ StepEvent s c := by
  obtain ⟨-, c, e, ht, hc⟩ := step_cases h
  exact ⟨c, e, ht, hc.event⟩

/-- `step_event` for a step between states given field by field. -/
theorem step_event_mk {p : Params} {c c' : Core p.width} {e e' : Env} (h : step ⟨p, c, e⟩ = .next ⟨p, c', e'⟩) :
    StepEvent ⟨p, c, e⟩ c' := by
  obtain ⟨_, _, ht, hev⟩ := step_event h
  cases ht
  exact hev

/-- What runs before `complete` leaves OVR and the enables, with an error or without. -/
theorem Completes.ovr_doneIe_ovrIe {s : State} {d : Decoded} {c : Core s.params.width} {code : ErrCode}
    (h : Completes s d c code) : c.ovr = s.core.ovr ∧ c.doneIe = s.core.doneIe ∧ c.ovrIe = s.core.ovrIe := by
  cases h with
  | illegal | error => exact ⟨rfl, rfl, rfl⟩
  | effect heff => cases heff <;> exact ⟨rfl, rfl, rfl⟩

/-- Settles O10: of the RegWrites only an acceptance touches BUSY and PENDING; completion and reset clear both. -/
theorem busyChangesOnlyByTheLifeCycle : Obligations.BusyChangesOnlyByTheLifeCycle := by
  intro s t hinv hstep
  obtain ⟨c, e, rfl, hev⟩ := step_event hstep
  cases hev with
  | same => exact ⟨hinv, .inl ⟨rfl, rfl⟩⟩
  | write idx v c hw heff =>
    cases heff with
    | cmd v hbusy => exact ⟨rfl, .inr (.inl ⟨v, hbusy, hw, rfl, rfl⟩)⟩
    | _ => exact ⟨hinv, .inl ⟨rfl, rfl⟩⟩
  | completion d c code turn busy => exact ⟨rfl, .inr (.inr (.inl ⟨turn, busy, rfl, rfl⟩))⟩
  | reset turn => exact ⟨rfl, .inr (.inr (.inr ⟨turn, rfl, rfl⟩))⟩

/-- OVR before and after a RegWrite: an overrun sets it, STATUS_CLR bit 2 clears it, no other write changes it. -/
theorem WriteEffect.ovr_cases {w : Nat} {c c' : Core w} {idx : Nat} {v : Reg64} (h : WriteEffect c idx v c') :
    c'.ovr = c.ovr ∨ (c.busy = true ∧ (idx = 4 ∨ idx = 6 ∨ idx = 7) ∧ c'.ovr = true) ∨
      (idx = 2 ∧ v.getLsbD 2 = true ∧ c'.ovr = false) := by
  cases h with
  | statusClr =>
    cases hv : v.getLsbD 2 with
    | false => exact .inl (by rw [Core.clearFlags_ovr, hv, Bool.not_false, Bool.and_true])
    | true => exact .inr (.inr ⟨rfl, rfl, by rw [Core.clearFlags_ovr, hv, Bool.not_true, Bool.and_false]⟩)
  | overrun idx v hbusy hidx => exact .inr (.inl ⟨hbusy, hidx, rfl⟩)
  | _ => exact .inl rfl

/-- Settles O11: a completion leaves OVR, and the RegWrites that change it are the two named. -/
theorem overrunFlagIsSticky : Obligations.OverrunFlagIsSticky := by
  intro s t hstep
  obtain ⟨c, e, rfl, hev⟩ := step_event hstep
  simp only [State.setEnv_core, State.setCore_core]
  cases hev with
  | same => simp +contextual
  | write idx v c hw heff =>
    rcases heff.ovr_cases with hsame | ⟨hbusy, hidx, hset⟩ | ⟨rfl, hv, hclear⟩
    · simp +contextual [hsame]
    · exact ⟨fun _ _ => ⟨hbusy, idx, v, hw, hidx⟩, fun _ hfalse => absurd (hset.symm.trans hfalse) (by decide)⟩
    · exact ⟨fun _ htrue => absurd (hclear.symm.trans htrue) (by decide), fun _ _ => .inr ⟨v, hw, hv⟩⟩
  | completion d c code turn busy hd hc =>
    obtain ⟨hovr, -, -⟩ := hc.ovr_doneIe_ovrIe
    simp +contextual [hovr]
  | reset turn => exact ⟨fun _ htrue => absurd htrue Bool.false_ne_true, fun _ _ => .inl turn⟩

/-- S, R_ACTIVE and KEY_VALID change only by an error-free EXPAND_KEY, whose table has 2*(ROUNDS+1) words, and reset. -/
theorem StepEvent.key_cases {s : State} {c : Core s.params.width} (h : StepEvent s c) :
    (c.table = s.core.table ∧ (∀ i, c.tableWord i = s.core.tableWord i) ∧ c.rActive = s.core.rActive ∧
        c.keyValid = s.core.keyValid) ∨
      (completing? s = some (.cmd .expandKey) ∧ c.err = 0 ∧ c.rActive = s.core.rounds ∧ c.keyValid = true ∧
        ∀ i, 2 * (s.core.rounds.toNat + 1) ≤ i → c.tableWord i = s.core.tableWord i) ∨
      (nextTurn s = .reset ∧ c.rActive = 0 ∧ c.keyValid = false) := by
  cases h with
  | same => exact .inl ⟨rfl, fun _ => rfl, rfl, rfl⟩
  | write idx v c hw heff => cases heff <;> exact .inl ⟨rfl, Core.tableWord_congr rfl rfl, rfl, rfl⟩
  | completion d c code turn busy hd hc =>
    cases hc with
    | illegal | error => exact .inl ⟨rfl, Core.tableWord_congr rfl rfl, rfl, rfl⟩
    | effect heff =>
      cases heff with
      | expandKey =>
        refine .inr (.inl ⟨hd, rfl, rfl, rfl, fun i hi => ?_⟩)
        rw [Core.tableWord_complete, Core.tableWord_installKey,
          List.getElem?_eq_none ((expandedKey_length _).trans_le hi), Option.getD_none]
      | _ => exact .inl ⟨rfl, Core.tableWord_congr rfl rfl, rfl, rfl⟩
  | reset turn => exact .inr (.inr ⟨turn, rfl, rfl⟩)

/-- Settles O53, from the case lemma of S, R_ACTIVE and KEY_VALID. -/
theorem onlyExpandKeyReplacesTheKey : Obligations.OnlyExpandKeyReplacesTheKey :=
  fun _ _ _ _ _ hstep => (step_event_mk hstep).key_cases

/-- ROUNDS changes only by SET_ROUNDS and reset. -/
theorem StepEvent.rounds_cases {s : State} {c : Core s.params.width} (h : StepEvent s c) :
    c.rounds = s.core.rounds ∨
      (∃ n, completing? s = some (.cmd (.setRounds n)) ∧ n ≤ s.params.rMax ∧ c.rounds = BitVec.ofNat 16 n) ∨
      (nextTurn s = .reset ∧ c.rounds = 0) := by
  cases h with
  | same => exact .inl rfl
  | write idx v c hw heff => cases heff <;> exact .inl rfl
  | completion d c code turn busy hd hc =>
    cases hc with
    | illegal | error => exact .inl rfl
    | effect heff =>
      cases heff with
      | setRounds n hn => exact .inr (.inl ⟨n, hd, hn, rfl⟩)
      | _ => exact .inl rfl
  | reset turn => exact .inr (.inr ⟨turn, rfl⟩)

/-- KEYLEN and KEYBUF change only by CLEAR_KEY, PUSH_KEY and reset. -/
theorem StepEvent.keyBuf_cases {s : State} {c : Core s.params.width} (h : StepEvent s c) :
    (c.keyLen = s.core.keyLen ∧ c.keyBuf = s.core.keyBuf ∧ ∀ i, c.keyByte i = s.core.keyByte i) ∨
      (completing? s = some (.cmd .clearKey) ∧ c.keyLen = 0 ∧ c.keyBuf = s.core.keyBuf ∧
        ∀ i, c.keyByte i = s.core.keyByte i) ∨
      (∃ b, completing? s = some (.cmd (.pushKey b)) ∧ c.keyLen = s.core.keyLen + 1 ∧
        c.keyByte s.core.keyLen.toNat = BitVec.ofNat 8 b ∧
        ∀ i, i ≠ s.core.keyLen.toNat → c.keyByte i = s.core.keyByte i) ∨
      (nextTurn s = .reset ∧ c.keyLen = 0) := by
  cases h with
  | same => exact .inl ⟨rfl, rfl, fun _ => rfl⟩
  | write idx v c hw heff => cases heff <;> exact .inl ⟨rfl, rfl, Core.keyByte_congr rfl rfl⟩
  | completion d c code turn busy hd hc =>
    cases hc with
    | illegal | error => exact .inl ⟨rfl, rfl, Core.keyByte_congr rfl rfl⟩
    | effect heff =>
      cases heff with
      | clearKey => exact .inr (.inl ⟨hd, rfl, rfl, Core.keyByte_congr rfl rfl⟩)
      | pushKey b =>
        refine .inr (.inr (.inl ⟨b, hd, rfl, ?_, fun i hi => ?_⟩))
        · rw [Core.keyByte_complete, Core.keyByte_pushKey, if_pos rfl]
        · rw [Core.keyByte_complete, Core.keyByte_pushKey, if_neg hi]
      | _ => exact .inl ⟨rfl, rfl, Core.keyByte_congr rfl rfl⟩
  | reset turn => exact .inr (.inr (.inr ⟨turn, rfl⟩))

/-- Settles O54, from the two case lemmas. -/
theorem onlyTheirCommandsChangeTheStagedKey : Obligations.OnlyTheirCommandsChangeTheStagedKey := by
  intro s t hstep
  obtain ⟨c, e, rfl, hev⟩ := step_event hstep
  exact ⟨hev.rounds_cases, hev.keyBuf_cases⟩

/-- DONE before and after a RegWrite: an acceptance or STATUS_CLR bit 1 clears it, no other write changes it. -/
theorem WriteEffect.done_cases {w : Nat} {c c' : Core w} {idx : Nat} {v : Reg64} (h : WriteEffect c idx v c') :
    c'.done = c.done ∨ (c'.done = false ∧ ((idx = 4 ∧ c.busy = false) ∨ (idx = 2 ∧ v.getLsbD 1 = true))) := by
  cases h with
  | statusClr =>
    cases hv : v.getLsbD 1 with
    | false => exact .inl (by rw [Core.clearFlags_done, hv, Bool.not_false, Bool.and_true])
    | true => exact .inr ⟨by rw [Core.clearFlags_done, hv, Bool.not_true, Bool.and_false], .inr ⟨rfl, rfl⟩⟩
  | cmd v hbusy => exact .inr ⟨rfl, .inl ⟨rfl, hbusy⟩⟩
  | _ => exact .inl rfl

/-- The enables before and after a RegWrite: a write of IRQ_EN sets them, no other write changes them. -/
theorem WriteEffect.enables_cases {w : Nat} {c c' : Core w} {idx : Nat} {v : Reg64} (h : WriteEffect c idx v c') :
    (c'.doneIe = c.doneIe ∧ c'.ovrIe = c.ovrIe) ∨
      (idx = 3 ∧ c'.doneIe = v.getLsbD 1 ∧ c'.ovrIe = v.getLsbD 2) := by
  cases h with
  | irqEn => exact .inr ⟨rfl, rfl, rfl⟩
  | _ => exact .inl ⟨rfl, rfl⟩

theorem WriteEffect.err_eq {w : Nat} {c c' : Core w} {idx : Nat} {v : Reg64} (h : WriteEffect c idx v c') :
    c'.err = c.err := by
  cases h <;> rfl

/-- DONE is set only by a completion, and cleared only by acceptance, STATUS_CLR bit 1 and reset. -/
theorem StepEvent.done_cases {s : State} {c : Core s.params.width} (h : StepEvent s c) :
    c.done = s.core.done ∨ (c.done = true ∧ completing? s ≠ none) ∨
      (c.done = false ∧ ((∃ v, registerWrite? s = some (4, v) ∧ s.core.busy = false) ∨
        (∃ v, registerWrite? s = some (2, v) ∧ v.getLsbD 1 = true) ∨ nextTurn s = .reset)) := by
  cases h with
  | same => exact .inl rfl
  | write idx v c hw heff =>
    rcases heff.done_cases with hsame | ⟨hfalse, ⟨rfl, hbusy⟩ | ⟨rfl, hv⟩⟩
    · exact .inl hsame
    · exact .inr (.inr ⟨hfalse, .inl ⟨v, hw, hbusy⟩⟩)
    · exact .inr (.inr ⟨hfalse, .inr (.inl ⟨v, hw, hv⟩)⟩)
  | completion d c code turn busy hd => exact .inr (.inl ⟨rfl, hd ▸ Option.some_ne_none d⟩)
  | reset turn => exact .inr (.inr ⟨rfl, .inr (.inr turn)⟩)

/-- ERR changes only at a completion and at reset. -/
theorem StepEvent.err_cases {s : State} {c : Core s.params.width} (h : StepEvent s c) :
    c.err = s.core.err ∨ completing? s ≠ none ∨ (nextTurn s = .reset ∧ c.err = 0) := by
  cases h with
  | same => exact .inl rfl
  | write idx v c hw heff => exact .inl heff.err_eq
  | completion d c code turn busy hd => exact .inr (.inl (hd ▸ Option.some_ne_none d))
  | reset turn => exact .inr (.inr ⟨turn, rfl⟩)

/-- The enables change only by a write of IRQ_EN and by reset. -/
theorem StepEvent.enables_cases {s : State} {c : Core s.params.width} (h : StepEvent s c) :
    (c.doneIe = s.core.doneIe ∧ c.ovrIe = s.core.ovrIe) ∨
      (∃ v, registerWrite? s = some (3, v) ∧ c.doneIe = v.getLsbD 1 ∧ c.ovrIe = v.getLsbD 2) ∨
      (nextTurn s = .reset ∧ c.doneIe = false ∧ c.ovrIe = false) := by
  cases h with
  | same => exact .inl ⟨rfl, rfl⟩
  | write idx v c hw heff =>
    rcases heff.enables_cases with hsame | ⟨rfl, hset⟩
    · exact .inl hsame
    · exact .inr (.inl ⟨v, hw, hset⟩)
  | completion d c code turn busy hd hc =>
    obtain ⟨-, hdone, hovr⟩ := hc.ovr_doneIe_ovrIe
    exact .inl ⟨hdone, hovr⟩
  | reset turn => exact .inr (.inr ⟨turn, rfl, rfl⟩)

/-- Settles O55, flag by flag, from the case lemmas of DONE, ERR and the enables. -/
theorem onlyTheirEventsChangeTheFlags : Obligations.OnlyTheirEventsChangeTheFlags := by
  intro s t hstep
  obtain ⟨c, e, rfl, hev⟩ := step_event hstep
  simp only [State.setEnv_core, State.setCore_core]
  refine ⟨fun hs ht => ?_, fun hs ht => ?_, hev.err_cases.resolve_left, fun hne => hev.enables_cases.resolve_left ?_⟩
  · rcases hev.done_cases with hsame | ⟨-, hcompletes⟩ | ⟨hfalse, -⟩
    · simp [hs, ht] at hsame
    · exact hcompletes
    · simp [ht] at hfalse
  · rcases hev.done_cases with hsame | ⟨htrue, -⟩ | ⟨-, hcause⟩
    · simp [hs, ht] at hsame
    · simp [ht] at htrue
    · exact hcause
  · rintro ⟨hdone, hovr⟩
    exact hne.elim (· hdone) (· hovr)

/-- The block changes only by the RegWrites of the DATA registers, by ENCRYPT and DECRYPT under a valid key, and by
reset. -/
theorem StepEvent.block_cases {s : State} {c : Core s.params.width} (h : StepEvent s c) :
    (c.dataA = s.core.dataA ∧ c.dataB = s.core.dataB) ∨
      (s.core.busy = false ∧ ∃ v, registerWrite? s = some (6, v) ∧ c.dataA = v.setWidth s.params.width ∧
        c.dataB = s.core.dataB) ∨
      (s.core.busy = false ∧ ∃ v, registerWrite? s = some (7, v) ∧ c.dataA = s.core.dataA ∧
        c.dataB = v.setWidth s.params.width) ∨
      ((completing? s = some (.cmd .encrypt) ∨ completing? s = some (.cmd .decrypt)) ∧ s.core.keyValid = true ∧
        c.err = 0) ∨
      (nextTurn s = .reset ∧ c.dataA = 0 ∧ c.dataB = 0) := by
  cases h with
  | same => exact .inl ⟨rfl, rfl⟩
  | write idx v c hw heff =>
    cases heff with
    | dataA v hbusy => exact .inr (.inl ⟨hbusy, v, hw, rfl, rfl⟩)
    | dataB v hbusy => exact .inr (.inr (.inl ⟨hbusy, v, hw, rfl, rfl⟩))
    | _ => exact .inl ⟨rfl, rfl⟩
  | completion d c code turn busy hd hc =>
    cases hc with
    | illegal | error => exact .inl ⟨rfl, rfl⟩
    | effect heff =>
      cases heff with
      | encrypt hkey => exact .inr (.inr (.inr (.inl ⟨.inl hd, hkey, rfl⟩)))
      | decrypt hkey => exact .inr (.inr (.inr (.inl ⟨.inr hd, hkey, rfl⟩)))
      | _ => exact .inl ⟨rfl, rfl⟩
  | reset turn => exact .inr (.inr (.inr (.inr ⟨turn, rfl, rfl⟩)))

/-- Settles O56, from the case lemma of the block. -/
theorem onlyTheirEventsChangeTheBlock : Obligations.OnlyTheirEventsChangeTheBlock :=
  fun _ _ _ _ _ hstep => (step_event_mk hstep).block_cases

end Sys2Proof.Machine
end

section
/-! PROOFS. What a read of each register returns and what a write does (10_state R35 to R42, R55), and the reset state
(R57). -/

namespace Sys2Proof.Machine

variable {w n : Nat}

/-! ## Fields of a register -/

theorem getLsbD_fieldAt (lo : Nat) (x : BitVec n) (i : Nat) :
    (fieldAt lo x).getLsbD i = (decide (i < 64) && decide (lo ≤ i) && x.getLsbD (i - lo)) := by
  simp only [fieldAt, BitVec.getLsbD_shiftLeft, BitVec.getLsbD_setWidth]
  grind

/-- A field that fits the register is read back from its own bits. -/
theorem extractLsb'_fieldAt_same {lo : Nat} (x : BitVec n) (h : lo + n ≤ 64) : (fieldAt lo x).extractLsb' lo n = x := by
  apply BitVec.eq_of_getLsbD_eq
  intro i hi
  rw [BitVec.getLsbD_extractLsb', getLsbD_fieldAt]
  simp [hi, show lo + i < 64 by omega]

/-- A field is zero on bits that are all below it or all above it. -/
theorem extractLsb'_fieldAt_disjoint {lo start len : Nat} (x : BitVec n) (h : start + len ≤ lo ∨ lo + n ≤ start) :
    (fieldAt lo x).extractLsb' start len = 0 := by
  apply BitVec.eq_of_getLsbD_eq
  intro i hi
  rw [BitVec.getLsbD_extractLsb', getLsbD_fieldAt]
  rcases h with hbelow | habove
  · simp [show ¬ lo ≤ start + i by omega]
  · simp [x.getLsbD_of_ge (start + i - lo) (by omega)]

/-! ## Reads -/

/-- Settles O35: the five fields of STATUS do not meet, so each is read back from its own bits. -/
theorem statusBits : Obligations.StatusBits := by
  intro p c d
  simp only [readRegister, Core.statusWord]
  simp only [BitVec.getLsbD_or, getLsbD_fieldAt, BitVec.getLsbD_ofBool, BitVec.extractLsb'_or]
  refine ⟨by simp, by simp, by simp, by simp, ?_, ?_, ?_⟩
  · simp [extractLsb'_fieldAt_disjoint]
  · simp [extractLsb'_fieldAt_disjoint, extractLsb'_fieldAt_same]
  · simp [extractLsb'_fieldAt_disjoint]

/-- Settles O36: the four fields of ID do not meet, and under a legal configuration each number fits its field. -/
theorem identificationFields : Obligations.IdentificationFields := by
  intro p c d hlegal
  obtain ⟨hwidth, hrMax, -, hbMax⟩ := p.legal_iff.1 hlegal
  have hw : p.width < 256 := by omega
  have hr : p.rMax < 65536 := by omega
  have hb : p.bMax < 65536 := by omega
  simp only [readRegister, idWord, BitVec.extractLsb'_or]
  refine ⟨?_, ?_, ?_, ?_, ?_⟩
  · simp [extractLsb'_fieldAt_disjoint, extractLsb'_fieldAt_same, hw]
  · simp [extractLsb'_fieldAt_disjoint, extractLsb'_fieldAt_same, hr]
  · simp [extractLsb'_fieldAt_disjoint, extractLsb'_fieldAt_same, hb]
  · simp [extractLsb'_fieldAt_disjoint, extractLsb'_fieldAt_same, interfaceVersion]
  · simp [extractLsb'_fieldAt_disjoint]

/-- No RegWrite touches ROUNDS, KEYLEN or R_ACTIVE. -/
theorem infoWord_writeRegister (c : Core w) (idx : Nat) (v : Reg64) : (writeRegister c idx v).infoWord = c.infoWord := by
  have hw := writeRegister_effect c idx v
  generalize writeRegister c idx v = c' at hw
  cases hw <;> rfl

/-- Settles O39: the three fields of INFO do not meet, and no RegWrite touches them. -/
theorem infoFields : Obligations.InfoFields := by
  intro p c d
  simp only [readRegister, infoWord_writeRegister]
  simp only [Core.infoWord, BitVec.extractLsb'_or]
  refine ⟨?_, ?_, ?_, ?_, fun _ _ => trivial⟩
  · simp [extractLsb'_fieldAt_disjoint, extractLsb'_fieldAt_same]
  · simp [extractLsb'_fieldAt_disjoint, extractLsb'_fieldAt_same]
  · simp [extractLsb'_fieldAt_disjoint, extractLsb'_fieldAt_same]
  · simp [extractLsb'_fieldAt_disjoint]

/-! ## Writes -/

/-- Settles O37: the two forms of the cleared flag agree bit by bit. -/
theorem statusClear : Obligations.StatusClear := by
  intro p c v d
  have hflag : ∀ flag bit : Bool, (flag && !bit) = if bit then false else flag := by decide
  exact ⟨by simp only [writeRegister, Core.clearFlags, hflag], rfl⟩

/-- Settles O38: the two enables are one-bit fields at 1 and 2. -/
theorem interruptEnable : Obligations.InterruptEnable := by
  intro p c v d
  refine ⟨rfl, fun n => ?_⟩
  simp only [readRegister, Core.irqEnableWord, BitVec.getLsbD_or, getLsbD_fieldAt, BitVec.getLsbD_ofBool]
  grind

/-- A legal width fits a register, so zero extension keeps the number. -/
theorem toNat_dataWord_idle {p : Params} {c : Core p.width} (hlegal : p.legal = true) (hbusy : c.busy = false)
    (draw : Nat) (x : Word p.width) : (c.dataWord draw x).toNat = x.toNat := by
  obtain ⟨hwidth, -, -, -⟩ := p.legal_iff.1 hlegal
  rw [Core.dataWord, if_neg (by simp [hbusy]), BitVec.toNat_setWidth_of_le (by omega)]

/-- Settles O40, by cases on BUSY; a read after the write reads the truncated value. -/
theorem dataRegisters : Obligations.DataRegisters := by
  intro p c v d hlegal
  refine ⟨fun hbusy => ?_, fun hbusy => ?_⟩
  · have hA : writeRegister c 6 v = c.putDataA (v.setWidth p.width) := by
      simp [writeRegister, Core.writeDataA, hbusy]
    have hB : writeRegister c 7 v = c.putDataB (v.setWidth p.width) := by
      simp [writeRegister, Core.writeDataB, hbusy]
    refine ⟨hA, hB, toNat_dataWord_idle hlegal hbusy d _, toNat_dataWord_idle hlegal hbusy d _, ?_, ?_⟩
    · rw [hA]
      exact (toNat_dataWord_idle hlegal hbusy d _).trans (BitVec.toNat_setWidth ..)
    · rw [hB]
      exact (toNat_dataWord_idle hlegal hbusy d _).trans (BitVec.toNat_setWidth ..)
  · exact ⟨if_pos hbusy, if_pos hbusy⟩

/-! ## The interrupt line and reset -/

/-- Settles O49: `irq` reads the flags and the enables, and each of the two writes sets one pair of them. -/
theorem interruptLine : Obligations.InterruptLine := by
  intro w c v
  refine ⟨rfl, rfl, rfl, rfl, fun hdone hovr => ?_⟩
  simp [writeRegister, Core.irq, hdone, hovr]

/-- Settles O51: the reset state's fields, as R57 lists them. -/
theorem resetStateIsIdle : Obligations.ResetStateIsIdle :=
  ⟨rfl, rfl, rfl, rfl, rfl, rfl, rfl, rfl, rfl, rfl, rfl, rfl, rfl, rfl⟩

end Sys2Proof.Machine
end

section
/-! PROOFS. How a key packs into words (20_memory R71): Pack's loop, told in the base-256 digits of each key word. -/

namespace Sys2Proof.Machine

variable {u : Nat}

/-! ## One turn of Pack's loop -/

/-- While the top byte of a word is zero, the rotation by 8 loses nothing: the word moves up one byte. -/
theorem toNat_rotl_eight (x : Word (8 * (u + 1))) (hx : x.toNat < 256 ^ u) : (rotl x 8).toNat = 256 * x.toNat := by
  rcases Nat.eq_zero_or_pos u with rfl | hu
  · rw [show x = 0#_ from BitVec.eq_of_toNat_eq (by simpa using hx), rotl_zero_word, BitVec.toNat_zero, mul_zero]
  · have hpow : 256 ^ u = 2 ^ (8 * u) := (pow_mul 2 8 u).symm
    have hmod : 2 ^ (8 * (u + 1)) = 256 * 256 ^ u := (pow_mul 2 8 (u + 1)).trans (pow_succ' 256 u)
    have hleft : x.toNat <<< 8 = 256 * x.toNat := (Nat.shiftLeft_eq ..).trans (mul_comm ..)
    have hright : x.toNat >>> (8 * u) = 0 := by rw [Nat.shiftRight_eq_div_pow, ← hpow, Nat.div_eq_of_lt hx]
    rw [toNat_rotl, Nat.mod_eq_of_lt (show 8 < 8 * (u + 1) by omega), if_neg (by decide),
      show 8 * (u + 1) - 8 = 8 * u by omega, hleft, hright, Nat.or_zero, Nat.mod_eq_of_lt (by omega)]

/-- The new byte enters at the bottom. -/
theorem toNat_rotl_add_byte (x : Word (8 * (u + 1))) (b : Byte) (hx : x.toNat < 256 ^ u) :
    (rotl x 8 + b.setWidth (8 * (u + 1))).toNat = b.toNat + 256 * x.toNat := by
  have hmod : 2 ^ (8 * (u + 1)) = 256 * 256 ^ u := (pow_mul 2 8 (u + 1)).trans (pow_succ' 256 u)
  have hb : b.toNat < 256 := b.isLt
  rw [BitVec.toNat_add, toNat_rotl_eight x hx, BitVec.toNat_setWidth_of_le (by omega), hmod,
    Nat.mod_eq_of_lt (by omega), add_comm]

/-! ## The bytes of a key word -/

/-- The key bytes that go into key word `k`, lowest first, as base-256 digits. -/
def keyWordDigits (u : Nat) (K : List Byte) (k : Nat) : List Nat := ((K.drop (k * u)).take u).map BitVec.toNat

theorem keyWordDigits_lt (u : Nat) (K : List Byte) (k : Nat) : ∀ d ∈ keyWordDigits u K k, d < 256 := by
  intro d hd
  obtain ⟨b, -, rfl⟩ := List.mem_map.1 hd
  exact b.isLt

theorem keyWordDigits_length (u : Nat) (K : List Byte) (k : Nat) :
    (keyWordDigits u K k).length = min u (K.length - k * u) := by
  simp [keyWordDigits]

/-- Key byte `n` is digit `n mod u` of key word `n div u`; past the key both are zero. -/
theorem getD_keyWordDigits (hu : 0 < u) (K : List Byte) (n : Nat) :
    (keyWordDigits u K (n / u)).getD (n % u) 0 = (K.getD n 0).toNat := by
  have hn : n / u * u + n % u = n := Nat.div_add_mod' n u
  rw [keyWordDigits, List.getD_eq_getElem?_getD, List.getD_eq_getElem?_getD, List.getElem?_map,
    List.getElem?_take_of_lt (Nat.mod_lt n hu), List.getElem?_drop, hn]
  cases K[n]? <;> rfl

/-- Of the word that byte `n` goes into, the bytes from `n` on are byte `n` and then the bytes from `n + 1` on. -/
theorem keyWordDigits_drop_same (hu : 0 < u) {K : List Byte} {n : Nat} (hn : n < K.length) :
    (keyWordDigits u K (n / u)).drop (n - n / u * u) =
      (K.getD n 0).toNat :: (keyWordDigits u K (n / u)).drop (n + 1 - n / u * u) := by
  have hdiv : n / u * u + n % u = n := Nat.div_add_mod' n u
  have hmod : n % u < u := Nat.mod_lt n hu
  have hlen : n % u < (keyWordDigits u K (n / u)).length := by rw [keyWordDigits_length]; omega
  rw [show n - n / u * u = n % u by omega, show n + 1 - n / u * u = n % u + 1 by omega,
    List.drop_eq_getElem_cons hlen, ← getD_keyWordDigits hu, List.getD_eq_getElem _ _ hlen]

/-- Of every other word, the bytes from `n` on are the bytes from `n + 1` on: all of them, or none. -/
theorem keyWordDigits_drop_other (hu : 0 < u) (K : List Byte) {n k : Nat} (hk : k ≠ n / u) :
    (keyWordDigits u K k).drop (n - k * u) = (keyWordDigits u K k).drop (n + 1 - k * u) := by
  rcases Nat.lt_or_gt_of_ne hk with hlt | hgt
  · have hle : (k + 1) * u ≤ n := (Nat.le_div_iff_mul_le hu).1 hlt
    rw [Nat.add_one_mul] at hle
    have hlen := keyWordDigits_length u K k
    rw [List.drop_eq_nil_of_le (by omega), List.drop_eq_nil_of_le (by omega)]
  · have hlt : n < k * u := (Nat.div_lt_iff_lt_mul hu).1 hgt
    rw [show n - k * u = 0 by omega, show n + 1 - k * u = 0 by omega]

/-! ## Pack's loop and Pack -/

/-- The words hold the key bytes from `n` on: each word is the number its own bytes from `n` on write in base 256. -/
def HoldsBytesFrom (u : Nat) (K : List Byte) (n : Nat) (L : List (Word (8 * u))) : Prop :=
  ∀ k, (L.getD k 0).toNat = Nat.ofDigits 256 ((keyWordDigits u K k).drop (n - k * u))

/-- One turn of the loop, at byte `n`. -/
theorem HoldsBytesFrom.turn (hu : 0 < u) {K : List Byte} {n : Nat} {L : List (Word (8 * u))} (hn : n < K.length)
    (hL : n / u < L.length) (h : HoldsBytesFrom u K (n + 1) L) :
    HoldsBytesFrom u K n
      (L.set (n / u) (rotl (L.getD (n / u) 0) 8 + (K.getD n 0).setWidth (8 * u))) := by
  intro k
  by_cases hk : k = n / u
  · subst hk
    obtain ⟨v, rfl⟩ : ∃ v, u = v + 1 := ⟨u - 1, by omega⟩
    have hbound : (L.getD (n / (v + 1)) 0).toNat < 256 ^ v := by
      rw [h]
      have hdigits : ∀ d ∈ (keyWordDigits (v + 1) K (n / (v + 1))).drop (n + 1 - n / (v + 1) * (v + 1)), d < 256 :=
        fun d hd => keyWordDigits_lt _ _ _ d (List.mem_of_mem_drop hd)
      refine (Nat.ofDigits_lt_base_pow_length (by decide) hdigits).trans_le (Nat.pow_le_pow_right (by decide) ?_)
      have hle : n / (v + 1) * (v + 1) ≤ n := Nat.div_mul_le_self n (v + 1)
      rw [List.length_drop, keyWordDigits_length]
      omega
    rw [List.getD_eq_getElem?_getD, List.getElem?_set_self hL, Option.getD_some, toNat_rotl_add_byte _ _ hbound, h,
      keyWordDigits_drop_same hu hn, Nat.ofDigits_cons]
  · rw [List.getD_eq_getElem?_getD, List.getElem?_set_ne (Ne.symm hk), ← List.getD_eq_getElem?_getD, h,
      keyWordDigits_drop_other hu K hk]

theorem HoldsBytesFrom.loop (hu : 0 < u) {K : List Byte} {n : Nat} {L : List (Word (8 * u))} (hn : n ≤ K.length)
    (hL : ∀ m, m < K.length → m / u < L.length) (h : HoldsBytesFrom u K n L) :
    HoldsBytesFrom u K 0 (packLoop u K n L) := by
  induction n generalizing L with
  | zero => exact h
  | succ n ih =>
    rw [packLoop]
    exact ih (by omega) (by simpa using hL) (h.turn hu (by omega) (hL n (by omega)))

/-- Every key byte has its word among the key words. -/
theorem div_lt_keyWordCount (hu : 0 < u) {m b : Nat} (hm : m < b) : m / u < keyWordCount u b := by
  have hle : m / u * u ≤ m := Nat.div_mul_le_self m u
  rw [keyWordCount, if_neg (by omega), Nat.lt_div_iff_mul_lt hu]
  omega

/-- 40_key_schedule R152: key word `k` is the number its key bytes write in base 256, lowest byte first. -/
theorem toNat_getD_pack (hu : 0 < u) (K : List Byte) (k : Nat) :
    ((pack (8 * u) K).getD k 0).toNat = Nat.ofDigits 256 (keyWordDigits u K k) := by
  have hstart : HoldsBytesFrom u K K.length (List.replicate (keyWordCount u K.length) 0) := by
    intro k
    have hlen := keyWordDigits_length u K k
    rw [List.drop_eq_nil_of_le (by omega), Nat.ofDigits_nil, List.getD_eq_getElem?_getD, List.getElem?_replicate]
    split <;> rfl
  have hloop := hstart.loop hu le_rfl (by simpa using fun m => div_lt_keyWordCount hu) k
  rw [Nat.zero_sub, List.drop_zero] at hloop
  rw [pack, Nat.mul_div_cancel_left u (by decide), hloop]

/-! ## One byte of a key word -/

/-- A digit of a number written in base 256. -/
theorem ofDigits_div_pow_mod (digits : List Nat) (hdigits : ∀ d ∈ digits, d < 256) (i : Nat) :
    Nat.ofDigits 256 digits / 256 ^ i % 256 = digits.getD i 0 := by
  rw [Nat.ofDigits_div_pow_eq_ofDigits_drop i (by decide) digits hdigits, Nat.ofDigits_mod_eq_head!,
    List.getD_eq_getElem?_getD, ← List.head?_drop]
  cases hdrop : digits.drop i with
  | nil => rfl
  | cons d rest => exact Nat.mod_eq_of_lt (hdigits d (List.mem_of_mem_drop (hdrop ▸ List.mem_cons_self)))

theorem extractLsb'_getD_pack (hu : 0 < u) (K : List Byte) (n : Nat) :
    ((pack (8 * u) K).getD (n / u) 0).extractLsb' (8 * (n % u)) 8 = K.getD n 0 := by
  apply BitVec.eq_of_toNat_eq
  rw [BitVec.extractLsb'_toNat, toNat_getD_pack hu, Nat.shiftRight_eq_div_pow, pow_mul]
  exact (ofDigits_div_pow_mod _ (keyWordDigits_lt u K _) _).trans (getD_keyWordDigits hu K n)

/-- Settles O27: the two clauses are one fact about byte `n` of the key, read as 0 past its end. -/
theorem packIsLittleEndian : Obligations.PackIsLittleEndian := by
  intro u K hu
  refine ⟨fun n _ => extractLsb'_getD_pack hu K n, fun n hn => ?_⟩
  rw [extractLsb'_getD_pack hu, List.getD_eq_default _ _ hn]

end Sys2Proof.Machine
end

section
/-! PROOFS. The host's accesses, by register index and by bus address (20_memory R73 to R77). -/

namespace Sys2Proof.Machine

variable {w : Nat}

/-! ## The host's turn -/

/-- A step on the host's turn performs the host's next operation. -/
theorem step_eq_hostOp {s : State} {op : HostOp} {rest : List HostOp} (hlegal : s.params.legal = true)
    (hturn : nextTurn s = .host) (hops : s.env.host = op :: rest) :
    step s = hostOp (s.setEnv { s.env with host := rest, turns := s.env.turns.tail }) op := by
  rw [step, stepOf, if_pos hlegal, hturn, takeTurn, hostTurn, State.afterTurn_host, hops]
  rfl

/-! ## Register reads -/

/-- Reads of the write-only registers (10_state R34) and of unused indices (R74) return 0. -/
theorem readRegister_eq_zero (p : Params) (c : Core p.width) (draw : Nat) {idx : Nat}
    (h : idx = 2 ∨ idx = 4 ∨ 8 ≤ idx) : readRegister p c draw idx = 0 := by
  match idx with
  | 0 | 1 | 3 | 5 | 6 | 7 => omega
  | 2 | 4 | _ + 8 => rfl

/-- R76: a read that draws no free value does not depend on the draw's number. -/
theorem readRegister_draw_irrelevant {p : Params} {c : Core p.width} {idx : Nat} (h : c.readDraws idx = false)
    (draw draw' : Nat) : readRegister p c draw idx = readRegister p c draw' idx := by
  match idx with
  | 0 | 1 | 2 | 3 | 4 | 5 | _ + 8 => rfl
  | 6 | 7 =>
    have hbusy : c.busy = false := by simpa [Core.readDraws] using h
    simp [readRegister, Core.dataWord, hbusy]

theorem Core.readDraws_eq_false {c : Core w} {idx : Nat} (h : c.busy = false ∨ (idx ≠ 6 ∧ idx ≠ 7)) :
    c.readDraws idx = false := by
  rcases h with hbusy | hidx
  · simp [Core.readDraws, hbusy]
  · simp [Core.readDraws, hidx]

/-- Settles O42: the value returned is the register's at the current draw, which counts only for a DATA read
in flight. -/
theorem readsChangeNothing : Obligations.ReadsChangeNothing := by
  intro s idx rest hlegal hturn hops
  refine ⟨_, _, step_eq_hostOp hlegal hturn hops, fun hquiet => ?_⟩
  have hdraws : s.core.readDraws idx = false := Core.readDraws_eq_false hquiet
  exact ⟨by simp [hdraws], fun d => readRegister_draw_irrelevant hdraws s.env.draws d⟩

/-! ## Register writes -/

/-- Writes of the read-only registers (10_state R34) and of unused indices (R74) are ignored. -/
theorem writeRegister_ignored (c : Core w) {idx : Nat} (v : Reg64) (h : idx = 0 ∨ idx = 1 ∨ idx = 5 ∨ 8 ≤ idx) :
    writeRegister c idx v = c := by
  have heff := writeRegister_effect c idx v
  generalize writeRegister c idx v = c' at heff
  cases heff with
  | ignored => rfl
  | _ => omega

/-- The bits of STATUS_CLR and IRQ_EN other than 1 and 2 are reserved (10_state R34, R37, R38). -/
theorem writeRegister_reserved_bits (c : Core w) {idx : Nat} (v : Reg64) (h : idx = 2 ∨ idx = 3) :
    writeRegister c idx (v &&& 6) = writeRegister c idx v := by
  have h1 : (v &&& 6).getLsbD 1 = v.getLsbD 1 := by simp
  have h2 : (v &&& 6).getLsbD 2 = v.getLsbD 2 := by simp
  rcases h with rfl | rfl
  · simp only [writeRegister, Core.clearFlags, h1, h2]
  · simp only [writeRegister, Core.putIrqEnable, h1, h2]

/-- Settles O41: the port ignores the access, and the host's turn does nothing to the core but that. -/
theorem reservedAccesses : Obligations.ReservedAccesses := by
  refine ⟨fun s v idx rest hlegal hturn hidx => ⟨fun hops => ?_, fun hops => ?_⟩, fun p c v d idx =>
    ⟨writeRegister_ignored c v, readRegister_eq_zero p c d, writeRegister_reserved_bits c v⟩⟩
  · have hdraws : s.core.readDraws idx = false := Core.readDraws_eq_false (.inr (by omega))
    rw [step_eq_hostOp hlegal hturn hops, hostOp, hostRead]
    simp only [State.setEnv_params, State.setEnv_core, State.setEnv_env, hdraws,
      readRegister_eq_zero s.params s.core _ (.inr (.inr hidx))]
    rfl
  · rw [step_eq_hostOp hlegal hturn hops, hostOp, hostWrite, writeRegister_ignored _ v (.inr (.inr (.inr hidx)))]
    rfl

theorem Core.clearFlags_clearFlags (c : Core w) (v : Reg64) : (c.clearFlags v).clearFlags v = c.clearFlags v := by
  simp [Core.clearFlags]

theorem writeRegister_cmd_idle {c : Core w} (v : Reg64) (h : c.busy = false) : writeRegister c 4 v = c.accept v := by
  simp [writeRegister, Core.writeCmd, h]

theorem writeRegister_cmd_busy {c : Core w} (v : Reg64) (h : c.busy = true) : writeRegister c 4 v = c.overrun := by
  simp [writeRegister, Core.writeCmd, h]

theorem writeRegister_dataA_idle {c : Core w} (v : Reg64) (h : c.busy = false) :
    writeRegister c 6 v = c.putDataA (v.setWidth w) := by
  simp [writeRegister, Core.writeDataA, h]

theorem writeRegister_dataB_idle {c : Core w} (v : Reg64) (h : c.busy = false) :
    writeRegister c 7 v = c.putDataB (v.setWidth w) := by
  simp [writeRegister, Core.writeDataB, h]

/-- Settles O43: an idle DATA write leaves BUSY = 0, so the second stores the same word; an accepted CMD write sets
BUSY, so the second overruns. -/
theorem writeIdempotence : Obligations.WriteIdempotence := by
  intro w c v
  refine ⟨c.clearFlags_clearFlags v, rfl, fun hbusy => ⟨?_, ?_, ?_⟩⟩
  · rw [writeRegister_dataA_idle v hbusy, writeRegister_dataA_idle v ((c.putDataA_busy _).trans hbusy)]
    rfl
  · rw [writeRegister_dataB_idle v hbusy, writeRegister_dataB_idle v ((c.putDataB_busy _).trans hbusy)]
    rfl
  · rw [writeRegister_cmd_idle v hbusy, writeRegister_cmd_busy v (c.accept_busy v)]
    rfl

/-! ## Accesses by bus address -/

theorem registerIndex?_eq_some_iff {p : Params} (hstride : 0 < p.regStride) (addr n : Nat) :
    p.registerIndex? addr = some n ↔ addr = p.registerAddress n := by
  simp only [Params.registerIndex?, Params.registerAddress]
  split
  · next hnone =>
    simp only [reduceCtorEq, false_iff]
    rintro rfl
    rcases hnone with hzero | hlow | hmod
    · omega
    · omega
    · exact hmod (by rw [Nat.add_sub_cancel_left, Nat.mul_mod_right])
  · next hsome =>
    push Not at hsome
    obtain ⟨-, hle, hmod⟩ := hsome
    have haddr : addr = p.baseAddr + p.regStride * ((addr - p.baseAddr) / p.regStride) := by
      rw [Nat.mul_div_cancel' (Nat.dvd_of_mod_eq_zero hmod), Nat.add_sub_cancel' hle]
    rw [Option.some_inj]
    constructor
    · rintro rfl
      exact haddr
    · rintro rfl
      rw [Nat.add_sub_cancel_left, Nat.mul_div_cancel_left n hstride]

/-- R73, R75 in the model's reading (log 8): a bus access reaches register index `n` exactly when it has 8 bytes and
stands at the register's address. -/
theorem busIndex?_eq_some_iff {p : Params} (hstride : 0 < p.regStride) (addr bytes n : Nat) :
    busIndex? p addr bytes = some n ↔ bytes = 8 ∧ addr = p.registerAddress n := by
  rw [busIndex?, Option.ite_none_right_eq_some, registerIndex?_eq_some_iff hstride]

theorem busIndex?_eq_none {p : Params} (hstride : 0 < p.regStride) {addr bytes : Nat}
    (h : bytes ≠ 8 ∨ ∀ n, addr ≠ p.registerAddress n) : busIndex? p addr bytes = none := by
  refine Option.eq_none_iff_forall_ne_some.2 fun n hn => ?_
  obtain ⟨hbytes, haddr⟩ := (busIndex?_eq_some_iff hstride addr bytes n).1 hn
  exact h.elim (· hbytes) (· n haddr)

/-- Which register a bus access reaches depends on the configuration alone, so the host's side `e` is free. -/
theorem hostOp_bus_of_some {s : State} {addr bytes n : Nat} (h : busIndex? s.params addr bytes = some n) (e : Env)
    (v : Reg64) :
    hostOp (s.setEnv e) (.busRead addr bytes) = hostOp (s.setEnv e) (.read n) ∧
    hostOp (s.setEnv e) (.busWrite addr bytes v) = hostOp (s.setEnv e) (.write n v) := by
  simp only [hostOp, State.setEnv_params, h, and_self]

theorem hostOp_bus_of_none {s : State} {addr bytes : Nat} (h : busIndex? s.params addr bytes = none) (e : Env)
    (v : Reg64) :
    hostOp (s.setEnv e) (.busRead addr bytes) = .refused .notWholeRegisterAccess ∧
    hostOp (s.setEnv e) (.busWrite addr bytes v) = .refused .notWholeRegisterAccess := by
  simp only [hostOp, State.setEnv_params, h, and_self]

/-- Settles O44: the host's turn finds the register index by the address, and there is one exactly at the registers'
addresses. -/
theorem busAccesses : Obligations.BusAccesses := by
  intro s v rest hlegal hstride hturn
  have hstep (op : HostOp) : step (s.setEnv { s.env with host := op :: rest }) =
      hostOp (s.setEnv { s.env with host := rest, turns := s.env.turns.tail }) op :=
    step_eq_hostOp (s := s.setEnv { s.env with host := op :: rest }) hlegal hturn rfl
  have hindex (n : Nat) : busIndex? s.params (s.params.registerAddress n) 8 = some n :=
    (busIndex?_eq_some_iff hstride _ 8 n).2 ⟨rfl, rfl⟩
  refine ⟨fun n => ?_, fun n => ?_, fun addr bytes hbad => ?_⟩
  · rw [hstep, hstep]
    exact (hostOp_bus_of_some (hindex n) _ v).1
  · rw [hstep, hstep]
    exact (hostOp_bus_of_some (hindex n) _ v).2
  · rw [hstep, hstep]
    exact hostOp_bus_of_none (busIndex?_eq_none hstride hbad) _ v

end Sys2Proof.Machine
end

section
/-! PROOFS. The command encoding (30_encoding R101 to R111): words by their four fields, the decoder as the inverse of the
encoder, and the rows of the opcode map. -/

namespace Sys2Proof

variable {v : Reg64} {i : Instr} {imm : BitVec 16}

/-! ## The fields of a word -/

/-- R102: the four fields cover all 64 bits, so they determine the word. -/
theorem eq_iff_fields_eq (v v' : Reg64) : v = v' ↔
    opcField v = opcField v' ∧ rsv0Field v = rsv0Field v' ∧ imm16Field v = imm16Field v' ∧ rsv1Field v = rsv1Field v' := by
  refine ⟨fun h => by simp [h], fun ⟨hopc, hrsv0, himm, hrsv1⟩ => ?_⟩
  simp only [opcField, rsv0Field, imm16Field, rsv1Field] at hopc hrsv0 himm hrsv1
  simp only [← BitVec.toNat_inj, BitVec.extractLsb'_toNat] at hopc hrsv0 himm hrsv1 ⊢
  omega

theorem fields_and (v m : Reg64) : opcField (v &&& m) = opcField v &&& opcField m ∧
    rsv0Field (v &&& m) = rsv0Field v &&& rsv0Field m ∧ imm16Field (v &&& m) = imm16Field v &&& imm16Field m ∧
    rsv1Field (v &&& m) = rsv1Field v &&& rsv1Field m :=
  ⟨BitVec.extractLsb'_and, BitVec.extractLsb'_and, BitVec.extractLsb'_and, BitVec.extractLsb'_and⟩

theorem assembleWord_eq_fieldAt (opc : BitVec 8) (imm : BitVec 16) :
    assembleWord opc imm = Machine.fieldAt 16 imm ||| Machine.fieldAt 0 opc := by
  simp [assembleWord, Machine.fieldAt]

@[simp] theorem opcField_assembleWord (opc : BitVec 8) (imm : BitVec 16) : opcField (assembleWord opc imm) = opc := by
  simp [assembleWord_eq_fieldAt, opcField, BitVec.extractLsb'_or, Machine.extractLsb'_fieldAt_same,
    Machine.extractLsb'_fieldAt_disjoint]

@[simp] theorem rsv0Field_assembleWord (opc : BitVec 8) (imm : BitVec 16) : rsv0Field (assembleWord opc imm) = 0 := by
  simp [assembleWord_eq_fieldAt, rsv0Field, BitVec.extractLsb'_or, Machine.extractLsb'_fieldAt_disjoint]

@[simp] theorem imm16Field_assembleWord (opc : BitVec 8) (imm : BitVec 16) : imm16Field (assembleWord opc imm) = imm := by
  simp [assembleWord_eq_fieldAt, imm16Field, BitVec.extractLsb'_or, Machine.extractLsb'_fieldAt_same,
    Machine.extractLsb'_fieldAt_disjoint]

@[simp] theorem rsv1Field_assembleWord (opc : BitVec 8) (imm : BitVec 16) : rsv1Field (assembleWord opc imm) = 0 := by
  simp [assembleWord_eq_fieldAt, rsv1Field, BitVec.extractLsb'_or, Machine.extractLsb'_fieldAt_disjoint]

/-- R101: a word without reserved bits is assembled from its OPC and its IMM16. -/
theorem assembleWord_fields (hrsv0 : rsv0Field v = 0) (hrsv1 : rsv1Field v = 0) :
    assembleWord (opcField v) (imm16Field v) = v := by
  simp [eq_iff_fields_eq, hrsv0, hrsv1]

/-! ## The decoder and the encoder -/

theorem decodePlain_eq_cmd_iff {j : Instr} : decodePlain imm j = .cmd i ↔ imm = 0 ∧ j = i := by
  unfold decodePlain
  split <;> simp_all

theorem immHigh_eq_zero_iff : immHigh imm = 0 ↔ imm.toNat ≤ 255 := by
  simp only [immHigh, ← BitVec.toNat_inj, BitVec.extractLsb'_toNat, BitVec.ofNat_eq_ofNat, BitVec.toNat_ofNat,
    Nat.zero_mod]
  omega

/-- R103: an operand of PUSH_KEY with IMM16's high byte zero is the whole of IMM16. -/
theorem toNat_immLow (h : immHigh imm = 0) : (immLow imm).toNat = imm.toNat := by
  have himm : imm.toNat ≤ 255 := immHigh_eq_zero_iff.1 h
  rw [immLow, BitVec.extractLsb'_toNat]
  omega

/-- R106: a word that decodes to a command has no reserved bits. -/
theorem decode_eq_cmd_iff_fields : decode v = .cmd i ↔
    rsv0Field v = 0 ∧ rsv1Field v = 0 ∧ decodeOpcode (opcField v).toNat (imm16Field v) = .cmd i := by
  rw [decode, ← and_assoc]
  split
  next hbad => simp only [reduceCtorEq, false_iff]; tauto
  next hgood =>
    rw [not_or, not_not, not_not] at hgood
    exact (and_iff_right hgood).symm

/-- R103, R107: a command read from OPC and IMM16 is well-formed and has exactly these fields. -/
theorem fields_of_decodeOpcode {opc : Nat} (h : decodeOpcode opc imm = .cmd i) :
    i.wellFormed = true ∧ i.opcode.toNat = opc ∧ i.immediate = imm := by
  match opc with
  | 0 | 2 | 4 | 5 | 6 =>
    obtain ⟨rfl, rfl⟩ := decodePlain_eq_cmd_iff.1 h
    exact ⟨rfl, rfl, rfl⟩
  | 1 =>
    cases h
    exact ⟨decide_eq_true (Nat.le_of_lt_succ imm.isLt), rfl, by simp [Instr.immediate]⟩
  | 3 =>
    rw [decodeOpcode] at h
    split at h
    next hhigh =>
      cases h
      exact ⟨decide_eq_true (Nat.le_of_lt_succ (immLow imm).isLt), rfl, by simp [Instr.immediate, toNat_immLow hhigh]⟩
    next => cases h
  | _ + 7 => cases h

/-- R106: a well-formed command is read back from its own OPC and IMM16. -/
theorem decodeOpcode_opcode_immediate (h : i.wellFormed = true) :
    decodeOpcode i.opcode.toNat i.immediate = .cmd i := by
  cases i with
  | nop | clearKey | expandKey | encrypt | decrypt => rfl
  | setRounds n =>
    have hn : n ≤ 65535 := of_decide_eq_true h
    have hoperand : (BitVec.ofNat 16 n).toNat = n := Nat.mod_eq_of_lt (by omega)
    simp [decodeOpcode, Instr.opcode, Instr.immediate, hoperand]
  | pushKey b =>
    have hb : b ≤ 255 := of_decide_eq_true h
    have hoperand : (BitVec.ofNat 16 b).toNat = b := Nat.mod_eq_of_lt (by omega)
    have hhigh : immHigh (BitVec.ofNat 16 b) = 0 := immHigh_eq_zero_iff.2 (hoperand.trans_le hb)
    simp [decodeOpcode, Instr.opcode, Instr.immediate, hhigh, toNat_immLow hhigh, hoperand]

/-- R101, R106, R109: decoding inverts encoding, on exactly the well-formed commands. -/
theorem decode_eq_cmd_iff : decode v = .cmd i ↔ i.wellFormed = true ∧ encode i = v := by
  constructor
  · intro h
    obtain ⟨hrsv0, hrsv1, hcmd⟩ := decode_eq_cmd_iff_fields.1 h
    obtain ⟨hwf, hopc, himm⟩ := fields_of_decodeOpcode hcmd
    refine ⟨hwf, ?_⟩
    rw [encode, BitVec.eq_of_toNat_eq hopc, himm, assembleWord_fields hrsv0 hrsv1]
  · rintro ⟨hwf, rfl⟩
    simpa [decode_eq_cmd_iff_fields, encode] using decodeOpcode_opcode_immediate hwf

/-- Settles O2: the fields of an assembled word are the ones it was assembled from. -/
theorem decodeEncodeRoundTrip : Obligations.DecodeEncodeRoundTrip :=
  fun _ hwf => decode_eq_cmd_iff.2 ⟨hwf, rfl⟩

/-- Settles O3: the decoded command has the word's OPC and IMM16, and the word no reserved bits. -/
theorem encodeDecodeRoundTrip : Obligations.EncodeDecodeRoundTrip :=
  fun _ _ h => decode_eq_cmd_iff.1 h

/-- Settles O1: the decoder evaluated on R111's seven words. -/
theorem decodesTheSpecsExamples : Obligations.DecodesTheSpecsExamples :=
  ⟨rfl, rfl, rfl, rfl, rfl, ⟨.immediate, rfl⟩, ⟨.reservedBits, rfl⟩⟩

/-! ## The opcode map -/

theorem mem_opcodeMap_iff {r : OpcodeRow} : r ∈ opcodeMap ↔ ∃ i : Instr, i.row = r := by
  constructor
  · intro h
    simp only [opcodeMap, List.mem_cons, List.not_mem_nil, or_false] at h
    rcases h with rfl | rfl | rfl | rfl | rfl | rfl | rfl <;> exact ⟨_, rfl⟩
  · rintro ⟨i, rfl⟩
    cases i <;> simp [opcodeMap, Instr.row]

/-- R105: every row's pattern is the row's opcode alone. -/
theorem row_pattern (i : Instr) : i.row.pattern = assembleWord i.opcode 0 := by
  cases i <;> simp only [Instr.row, Instr.opcode] <;> rfl

/-- R105: every row's mask keeps OPC, RSV0 and RSV1 whole; the rows differ in the bits of IMM16 they keep. -/
theorem row_mask_fields (i : Instr) : opcField i.row.mask = BitVec.allOnes 8 ∧
    rsv0Field i.row.mask = BitVec.allOnes 8 ∧ rsv1Field i.row.mask = BitVec.allOnes 32 := by
  cases i <;> simp only [Instr.row] <;> exact ⟨rfl, rfl, rfl⟩

/-- R105 in the fields of the word: a row asks for its opcode, no reserved bits, and no bits of IMM16 under its mask. -/
theorem row_covers_iff : i.row.covers v = true ↔
    opcField v = i.opcode ∧ rsv0Field v = 0 ∧ imm16Field v &&& imm16Field i.row.mask = 0 ∧ rsv1Field v = 0 := by
  obtain ⟨hopc, hrsv0, hrsv1⟩ := row_mask_fields i
  rw [OpcodeRow.covers, beq_iff_eq, eq_iff_fields_eq, row_pattern]
  simp only [fields_and v, hopc, hrsv0, hrsv1, BitVec.and_allOnes, opcField_assembleWord, rsv0Field_assembleWord,
    imm16Field_assembleWord, rsv1Field_assembleWord]

/-- R103, R105: with a row's opcode and no bits of IMM16 under the row's mask, the decoder reads a command of that row. -/
theorem decodeOpcode_of_masked_eq_zero (h : imm &&& imm16Field i.row.mask = 0) :
    ∃ j, decodeOpcode i.opcode.toNat imm = .cmd j ∧ j.row = i.row := by
  cases i with
  | nop | clearKey | expandKey | encrypt | decrypt =>
    have himm : imm = 0 := (BitVec.and_allOnes (x := imm)).symm.trans h
    exact ⟨_, decodePlain_eq_cmd_iff.2 ⟨himm, rfl⟩, rfl⟩
  | setRounds n => exact ⟨_, rfl, rfl⟩
  | pushKey b =>
    have hmask : imm16Field (Instr.pushKey b).row.mask = 0xFF00 := (rfl : imm16Field 0xFFFFFFFFFF00FFFF = 0xFF00)
    have hhigh : immHigh imm = 0 :=
      calc immHigh imm = immHigh imm &&& immHigh 0xFF00 := BitVec.and_allOnes.symm
        _ = immHigh (imm &&& 0xFF00) := BitVec.extractLsb'_and.symm
        _ = immHigh 0 := congrArg immHigh (hmask ▸ h)
    exact ⟨_, if_pos hhigh, rfl⟩

/-- R105: a word covered by a row decodes to a command of that row. -/
theorem decode_of_row_covers (h : i.row.covers v = true) : ∃ j, decode v = .cmd j ∧ j.row = i.row := by
  obtain ⟨hopc, hrsv0, himm, hrsv1⟩ := row_covers_iff.1 h
  obtain ⟨j, hcmd, hrow⟩ := decodeOpcode_of_masked_eq_zero himm
  exact ⟨j, decode_eq_cmd_iff_fields.2 ⟨hrsv0, hrsv1, by rwa [hopc]⟩, hrow⟩

/-- R105: the encoding of a well-formed command lies in the command's own row. -/
theorem row_covers_encode (h : i.wellFormed = true) : i.row.covers (encode i) = true := by
  cases i with
  | nop => exact Laws.RowCovers.nop h
  | setRounds n => exact Laws.RowCovers.setRounds n h
  | clearKey => exact Laws.RowCovers.clearKey h
  | pushKey b => exact Laws.RowCovers.pushKey b h
  | expandKey => exact Laws.RowCovers.expandKey h
  | encrypt => exact Laws.RowCovers.encrypt h
  | decrypt => exact Laws.RowCovers.decrypt h

/-- Settles O4: a legal word is its command's encoding, so the command's row covers it; and a row that covers a word is the row
of the one command the word decodes to, so two such rows are equal. -/
theorem legalExactlyWhenOneRowCovers : Obligations.LegalExactlyWhenOneRowCovers := by
  intro v
  have hlegal : ∀ r ∈ opcodeMap, r.covers v = true → ∃ i, decode v = .cmd i ∧ i.row = r := by
    intro r hr hcovers
    obtain ⟨i, rfl⟩ := mem_opcodeMap_iff.1 hr
    exact decode_of_row_covers hcovers
  refine ⟨fun i hi => ?_, hlegal, fun r hr r' hr' hcovers hcovers' => ?_⟩
  · obtain ⟨hwf, rfl⟩ := decode_eq_cmd_iff.1 hi
    exact ⟨mem_opcodeMap_iff.2 ⟨i, rfl⟩, row_covers_encode hwf⟩
  · obtain ⟨i, hi, rfl⟩ := hlegal r hr hcovers
    obtain ⟨j, hj, rfl⟩ := hlegal r' hr' hcovers'
    cases hi.symm.trans hj
    rfl

/-! ## WAIT -/

namespace Machine

/-- R35, R76: a read of STATUS draws no free value. -/
theorem hostRead_status (s : State) (d : Nat) :
    hostRead s 1 = s.setEnv { s.env with reads := s.env.reads ++ [(1, readRegister s.params s.core d 1)] } := by
  have hdraws : s.core.readDraws 1 = false := Core.readDraws_eq_false (by simp)
  rw [hostRead, hdraws, readRegister_draw_irrelevant hdraws s.env.draws d]
  rfl

/-- Settles O45: a turn of WAIT is the host's read of register 1, and the WAIT stays in the list exactly with BUSY = 1, which
is bit 0 of the value read. -/
theorem waitPollsStatus : Obligations.WaitPollsStatus := by
  intro s d rest hlegal hturn hops
  obtain ⟨hbusy, -, -, -, -, herr, -⟩ := statusBits s.params s.core d
  refine ⟨?_, hbusy, herr⟩
  rw [step_eq_hostOp hlegal hturn hops, hostOp, hostRead_status _ d, hbusy]
  rfl

end Machine

end Sys2Proof
end

section
/-! PROOFS. The functions of the key schedule: Pack, Seed, Mix and KeySchedule (40_key_schedule R150 to R159). -/

namespace Sys2Proof.Machine

variable {w u : Nat}

/-! ## Pack -/

/-- The digits' expansion in powers of the base, over any range that covers the digits. -/
theorem ofDigits_eq_sum_range (base : Nat) {digits : List Nat} {n : Nat} (h : digits.length ≤ n) :
    Nat.ofDigits base digits = ((List.range n).map (fun m => digits.getD m 0 * base ^ m)).sum := by
  induction digits generalizing n with
  | nil => simp
  | cons d rest ih =>
    obtain ⟨n, rfl⟩ : ∃ k, n = k + 1 := Nat.exists_eq_add_one.2 (by simp at h; omega)
    rw [Nat.ofDigits_cons, ih (Nat.le_of_succ_le_succ h), List.range_succ_eq_map, List.map_cons, List.sum_cons,
      List.map_map, ← List.sum_map_mul_left]
    simp [Function.comp_def, pow_succ', mul_left_comm]

/-- Settles O26: the key word is the number its bytes write in base 256, and digit `m` of it is byte `k*u + m`. -/
theorem packClosedForm : Obligations.PackClosedForm := by
  intro u K hu
  refine ⟨?_, fun k => ?_⟩
  · rw [pack_length, Nat.mul_div_cancel_left u (by decide), keyWordCount]
    simp only [List.length_eq_zero_iff]
  · have hlen : (keyWordDigits u K k).length ≤ u := (keyWordDigits_length u K k).trans_le (Nat.min_le_left _ _)
    rw [toNat_getD_pack hu, ofDigits_eq_sum_range 256 hlen]
    refine congrArg List.sum (List.map_congr_left fun m hm => ?_)
    have hmu : m < u := List.mem_range.1 hm
    obtain ⟨hdiv, hmod⟩ : (k * u + m) / u = k ∧ (k * u + m) % u = m :=
      (Nat.div_mod_unique hu).2 ⟨by rw [mul_comm, add_comm], hmu⟩
    have hdigit := getD_keyWordDigits hu K (k * u + m)
    rw [hdiv, hmod] at hdigit
    exact congrArg₂ (· * ·) hdigit (pow_mul 2 8 m).symm

theorem keyWordCount_pos (hu : 0 < u) (b : Nat) : 0 < keyWordCount u b := by
  rcases Nat.eq_zero_or_pos b with rfl | hb
  · exact Nat.one_pos
  · exact (Nat.zero_le _).trans_lt (div_lt_keyWordCount hu hb)

/-- R153: a key that fits KEYBUF has at most C_MAX key words. -/
theorem keyWordCount_le_cMax {p : Params} {b : Nat} (hb : b ≤ p.bMax) : keyWordCount p.bytesPerWord b ≤ p.cMax := by
  rw [keyWordCount, Params.cMax]
  split
  · exact Nat.le_max_left _ _
  · exact (Nat.div_le_div_right (by omega)).trans (Nat.le_max_right _ _)

/-! ## Seed -/

theorem progression_getElem? (q x : Word w) {n i : Nat} (hi : i < n) :
    (progression q n x)[i]? = some (x + BitVec.ofNat w i * q) := by
  induction n generalizing x i with
  | zero => omega
  | succ n ih =>
    rw [progression]
    cases i with
    | zero => simp
    | succ i =>
      rw [List.getElem?_cons_succ, ih _ (Nat.lt_of_succ_lt_succ hi), BitVec.ofNat_add, add_mul, BitVec.one_mul,
        add_assoc, add_comm q]

/-- R154: word `i` of Seed. -/
theorem seed_getElem? (P Q : Word w) {t i : Nat} (hi : i < t) : (seed P Q t)[i]? = some (P + BitVec.ofNat w i * Q) :=
  progression_getElem? Q P hi

/-- Settles O29, from word `i` of Seed. -/
theorem seedClosedForm : Obligations.SeedClosedForm := by
  intro w P Q t
  refine ⟨seed_length P Q t, fun ht => ?_, fun i hi => ?_, fun i hi => ?_⟩
  · rw [seed_getElem? P Q ht]
    simp
  · rw [seed_getElem? P Q hi, seed_getElem? P Q (Nat.lt_of_succ_lt hi), Option.map_some, BitVec.ofNat_add, add_mul,
      BitVec.one_mul, add_assoc]
  · rw [List.getD_eq_getElem?_getD, seed_getElem? P Q hi]
    simp [BitVec.toNat_add, BitVec.toNat_mul]

/-! ## Mix -/

/-- R156: iteration `k` works at `i = k mod t` and `j = k mod c`. -/
theorem mixLoop_indices (t c k : Nat) {m : MixState w} (hi : m.i = 0) (hj : m.j = 0) :
    (mixLoop t c k m).i = k % t ∧ (mixLoop t c k m).j = k % c := by
  induction k with
  | zero => simp [mixLoop, hi, hj]
  | succ k ih =>
    obtain ⟨hi, hj⟩ := ih
    simp [mixLoop_succ, mixStep, hi, hj]

/-- Of the numbers below `b`, every residue modulo `n` takes `b div n`, and the first `b mod n` residues one more. -/
theorem countP_range_mod_eq {n x : Nat} (hx : x < n) (b : Nat) :
    (List.range b).countP (fun k => k % n = x) = b / n + if x < b % n then 1 else 0 := by
  have hcount := Nat.count_modEq_card b (Nat.zero_lt_of_lt hx) x
  simpa only [Nat.count, Nat.ModEq, Nat.mod_eq_of_lt hx] using hcount

/-- Settles O31: the indices count up modulo `t` and `c`, so the iterations spread evenly over each table. -/
theorem mixVisitsEveryIndex : Obligations.MixVisitsEveryIndex := by
  intro w r c m hc hi hj
  refine ⟨fun S L => rfl, fun k => mixLoop_indices _ _ k hi hj, by omega, fun x hx => ?_, fun x hx => ?_⟩
  · have hpos : 0 < max (2 * (r + 1)) c := Nat.zero_lt_of_lt hx
    rw [countP_range_mod_eq hx, Nat.mul_div_cancel _ hpos, Nat.mul_mod_left, if_neg (Nat.not_lt_zero x)]
  · have hpos : 0 < min (2 * (r + 1)) c := Nat.zero_lt_of_lt hx
    have hrounds : 3 ≤ 3 * max (2 * (r + 1)) c / min (2 * (r + 1)) c :=
      (Nat.le_div_iff_mul_le hpos).2 (Nat.mul_le_mul_left 3 min_le_max)
    rw [countP_range_mod_eq hx]
    exact hrounds.trans (Nat.le_add_right _ _)

/-- Mix's scratch as R155 writes it: the tables as functions of the index, and A and B. -/
def MixState.tables (m : MixState w) : (Nat → Word w) × (Nat → Word w) × Word w × Word w :=
  (fun n => m.sub.getD n 0, fun n => m.key.getD n 0, m.a, m.b)

/-- R155's loop body at iteration `k`, over the library's rotation. -/
def specMixStep (t c : Nat) (x : (Nat → Word w) × (Nat → Word w) × Word w × Word w) (k : Nat) :
    (Nat → Word w) × (Nat → Word w) × Word w × Word w :=
  let A := (x.1 (k % t) + x.2.2.1 + x.2.2.2).rotateLeft 3
  let B := (x.2.1 (k % c) + A + x.2.2.2).rotateLeft ((A + x.2.2.2).toNat % w)
  (Function.update x.1 (k % t) A, Function.update x.2.1 (k % c) B, A, B)

/-- Storing at a listed index updates the table read as a function. -/
theorem getD_set_eq_update {α : Type} {L : List α} {i : Nat} (hi : i < L.length) (v d : α) :
    (fun n => (L.set i v).getD n d) = Function.update (fun n => L.getD n d) i v := by
  funext n
  simp only [List.getD_eq_getElem?_getD]
  by_cases hn : n = i
  · rw [hn, Function.update_self, List.getElem?_set_self hi, Option.getD_some]
  · rw [Function.update_of_ne hn, List.getElem?_set_ne (Ne.symm hn)]

/-- One iteration over lists is R155's loop body over functions. -/
theorem MixState.tables_mixStep (t c : Nat) {m : MixState w} {k : Nat} (hi : m.i = k % t) (hj : m.j = k % c)
    (hS : k % t < m.sub.length) (hL : k % c < m.key.length) :
    (mixStep t c m).tables = specMixStep t c m.tables k := by
  simp only [mixStep, MixState.tables, hi, hj, getD_set_eq_update hS, getD_set_eq_update hL, rotl_eq_rotateLeft]
  rfl

theorem MixState.tables_mixLoop {t c : Nat} (ht : 0 < t) (hc : 0 < c) {m : MixState w} (hi : m.i = 0) (hj : m.j = 0)
    (hS : m.sub.length = t) (hL : m.key.length = c) (n : Nat) :
    (mixLoop t c n m).tables = (List.range n).foldl (specMixStep t c) m.tables := by
  induction n with
  | zero => rfl
  | succ n ih =>
    obtain ⟨hin, hjn⟩ := mixLoop_indices t c n hi hj
    obtain ⟨hSn, hLn⟩ := mixLoop_lengths t c n m
    rw [mixLoop_succ, List.range_succ, List.foldl_concat, ← ih]
    exact MixState.tables_mixStep t c hin hjn (by rw [hSn, hS]; exact Nat.mod_lt n ht)
      (by rw [hLn, hL]; exact Nat.mod_lt n hc)

/-- Settles O30: the two loops agree from the start on, and a listed word of S' is what the function reads. -/
theorem mixIsTheSpecsLoop : Obligations.MixIsTheSpecsLoop := by
  intro w t c S L ht hc hS hL i hi
  have hloop := MixState.tables_mixLoop ht hc
    (m := { sub := S, key := L, a := 0, b := 0, i := 0, j := 0 }) rfl rfl hS hL (3 * max t c)
  have hlisted : i < (mix t c S L).length := by rwa [mix, (mixLoop_lengths ..).1, hS]
  calc (mix t c S L)[i]? = some ((mix t c S L).getD i 0) := by
        rw [List.getD_eq_getElem _ _ hlisted, List.getElem?_eq_getElem hlisted]
    _ = some (((List.range (3 * max t c)).foldl (specMixStep t c)
          (fun n => S.getD n 0, fun n => L.getD n 0, 0, 0)).1 i) :=
        congrArg (fun x => some (x.1 i)) hloop

/-- Settles O32: a legal W is a power of two and divides `2^W`, so it does not matter whether the sum wraps first. -/
theorem mixRotationAmounts : Obligations.MixRotationAmounts := by
  intro w t c m hw
  have hlog : 2 ^ Nat.log2 w = w := by rcases hw with rfl | rfl | rfl <;> rfl
  have hdvd : w ∣ 2 ^ w := by rcases hw with rfl | rfl | rfl <;> decide
  have hthree : 3 % w = 3 := Nat.mod_eq_of_lt (by omega)
  refine ⟨rotl_eq_rotateLeft _ 3, hthree, rotl_eq_rotateLeft _ _, ?_, ?_, rotl_zero_amount⟩
  · rw [BitVec.toNat_add, Nat.mod_mod_of_dvd _ hdvd]
  · rw [BitVec.extractLsb'_toNat, Nat.shiftRight_zero, hlog]

/-! ## KeySchedule -/

/-- Settles O33: Mix keeps the length of Seed, and Pack has as many words as R153 counts. -/
theorem keyScheduleShape : Obligations.KeyScheduleShape := by
  intro w P Q K r
  refine ⟨keySchedule_length P Q K r, ?_⟩
  rw [pack_length, keySchedule]

theorem packLoop_zero {K : List Byte} (hK : ∀ b ∈ K, b = 0) (u c n : Nat) :
    packLoop u K n (List.replicate c (0 : Word w)) = List.replicate c 0 := by
  induction n with
  | zero => rfl
  | succ n ih =>
    have hbyte : K.getD n 0 = 0 := by
      rw [List.getD_eq_getElem?_getD]
      cases hn : K[n]? with
      | none => rfl
      | some b => exact hK b (List.mem_of_getElem? hn)
    have hword : rotl ((List.replicate c (0 : Word w)).getD (n / u) 0) 8 + (K.getD n 0).setWidth w = 0 := by
      rw [hbyte]
      simp
    rw [packLoop, hword, List.set_replicate_self, ih]

/-- R159: every key word of a key of zero bytes is 0. -/
theorem pack_zero {K : List Byte} (hK : ∀ b ∈ K, b = 0) (w : Nat) :
    pack w K = List.replicate (keyWordCount (w / 8) K.length) 0 := packLoop_zero hK ..

theorem progression_zero (n : Nat) (x : Word w) : progression 0 n x = List.replicate n x := by
  induction n with
  | zero => rfl
  | succ n ih => rw [progression, show x + 0 = x from BitVec.add_zero x, ih, List.replicate_succ]

theorem seed_zero (t : Nat) : seed (0 : Word w) 0 t = List.replicate t 0 := progression_zero t 0

/-- Mix's scratch with nothing in it but zeros, at any indices. -/
structure MixState.IsZero (t c : Nat) (m : MixState w) : Prop where
  sub : m.sub = List.replicate t 0
  key : m.key = List.replicate c 0
  a : m.a = 0
  b : m.b = 0

theorem MixState.IsZero.step {t c : Nat} {m : MixState w} (h : m.IsZero t c) : (mixStep t c m).IsZero t c := by
  obtain ⟨hsub, hkey, ha, hb⟩ := h
  constructor <;> simp [mixStep, hsub, hkey, ha, hb]

theorem MixState.IsZero.loop {t c : Nat} {m : MixState w} (h : m.IsZero t c) (n : Nat) :
    (mixLoop t c n m).IsZero t c := by
  induction n with
  | zero => exact h
  | succ n ih => exact mixLoop_succ t c n m ▸ ih.step

theorem mix_zero (t c : Nat) :
    mix t c (List.replicate t (0 : Word w)) (List.replicate c 0) = List.replicate t 0 :=
  (MixState.IsZero.loop ⟨rfl, rfl, rfl, rfl⟩ _).sub

/-- Settles O34: Pack and Seed give zeros only, and Mix keeps them. -/
theorem zeroKeyUnderZeroConstants : Obligations.ZeroKeyUnderZeroConstants := by
  intro w K r hK
  refine ⟨fun x hx => ?_, fun i hi => ?_⟩
  · rw [pack_zero hK] at hx
    exact List.eq_of_mem_replicate hx
  · rw [keySchedule, seed_zero, pack_zero hK, mix_zero, List.getElem?_replicate, if_pos hi]

end Sys2Proof.Machine
end

section
/-! PROOFS. The commands of the key schedule: SET_ROUNDS, CLEAR_KEY, PUSH_KEY and EXPAND_KEY (40_key_schedule R131 to
R134, R153). -/

namespace Sys2Proof

/-- R101: the word of an OPC and an IMM16 as a number. -/
theorem assembleWord_eq_ofNat (opc : BitVec 8) (imm : BitVec 16) :
    assembleWord opc imm = BitVec.ofNat 64 (imm.toNat * 2 ^ 16 + opc.toNat) := by
  have himm : imm.toNat < 2 ^ 16 := imm.isLt
  have hopc : opc.toNat < 2 ^ 16 := opc.isLt.trans (by decide)
  apply BitVec.eq_of_toNat_eq
  rw [assembleWord, BitVec.toNat_or, BitVec.toNat_shiftLeft, BitVec.toNat_setWidth_of_le (by decide),
    BitVec.toNat_setWidth_of_le (by decide), BitVec.toNat_ofNat, Nat.shiftLeft_eq,
    Nat.mod_eq_of_lt (show imm.toNat * 2 ^ 16 < 2 ^ 64 by omega), ← Nat.shiftLeft_eq,
    ← Nat.shiftLeft_add_eq_or_of_lt hopc, Nat.shiftLeft_eq, Nat.mod_eq_of_lt (by omega)]

/-- R101, R106: a well-formed command is decoded from its operand and its opcode, given as numbers. -/
theorem decode_ofNat {i : Instr} (h : i.wellFormed = true) :
    decode (BitVec.ofNat 64 (i.immediate.toNat * 2 ^ 16 + i.opcode.toNat)) = .cmd i :=
  decode_eq_cmd_iff.2 ⟨h, assembleWord_eq_ofNat _ _⟩

theorem decode_setRounds {n : Nat} (hn : n ≤ 65535) :
    decode (BitVec.ofNat 64 (n * 2 ^ 16 + 0x01)) = .cmd (.setRounds n) := by
  have hword := decode_ofNat (i := .setRounds n) (decide_eq_true hn)
  rwa [Instr.immediate, BitVec.toNat_ofNat, Nat.mod_eq_of_lt (by omega)] at hword

theorem decode_pushKey {b : Nat} (hb : b ≤ 255) :
    decode (BitVec.ofNat 64 (b * 2 ^ 16 + 0x03)) = .cmd (.pushKey b) := by
  have hword := decode_ofNat (i := .pushKey b) (decide_eq_true hb)
  rwa [Instr.immediate, BitVec.toNat_ofNat, Nat.mod_eq_of_lt (by omega)] at hword

namespace Machine

variable {w : Nat} {s : State} {i : Instr}

/-- A command whose effect is defined completes with it and with ERR_NONE. -/
theorem Effect.exec_eq {c : Core s.params.width} (h : Effect s i c) :
    exec i s = .next (s.setCore (c.endedWith 0)) := by
  cases h with
  | nop | clearKey => rfl
  | setRounds n hn => exact if_neg (Nat.not_lt.2 hn)
  | pushKey b hfull => exact if_neg hfull
  | expandKey hempty => exact if_neg hempty
  | encrypt hkey | decrypt hkey => exact if_neg (by simp [hkey])

/-- A command under the condition of its error raises it and changes nothing else. -/
theorem Raises.exec_eq {e : ErrCode} (h : Raises s i e) : exec i s = .next (s.setCore (s.core.endedWith e.bits)) := by
  cases h with
  | range n hn => exact if_pos hn
  | keyFull b hfull => exact if_pos hfull
  | emptyKey hempty => exact if_pos hempty
  | encryptNoKey hkey | decryptNoKey hkey => exact if_pos hkey

/-- Settles O15: a count up to R_MAX fits the 16 bits of ROUNDS under a legal configuration. -/
theorem setRoundsStagesTheCount : Obligations.SetRoundsStagesTheCount := by
  refine ⟨fun n hn => decode_setRounds hn, fun s n hlegal => ⟨fun hn => ?_, fun hn => (Raises.range n hn).exec_eq⟩⟩
  obtain ⟨-, hrMax, -, -⟩ := s.params.legal_iff.1 hlegal
  exact ⟨BitVec.ofNat 16 n, Nat.mod_eq_of_lt (by omega), (Effect.setRounds n hn).exec_eq⟩

/-- Settles O16: the effect is KEYLEN = 0, and the staged key is the bytes below KEYLEN. -/
theorem clearKeyEmptiesTheStagedKey : Obligations.ClearKeyEmptiesTheStagedKey :=
  ⟨rfl, fun _ => ⟨Effect.clearKey.exec_eq, rfl⟩⟩

/-- Below 65535 bytes KEYLEN grows without wrapping. -/
theorem Core.toNat_keyLen_pushKey {c : Core w} (hlen : c.keyLen.toNat < 65535) (b : Byte) :
    (c.pushKey b).keyLen.toNat = c.keyLen.toNat + 1 :=
  BitVec.toNat_add_of_lt (show c.keyLen.toNat + 1 < 2 ^ 16 by omega)

/-- R133: the byte pushed joins the staged key at its end. -/
theorem Core.stagedKey_pushKey {c : Core w} (hlen : c.keyLen.toNat < 65535) (b : Byte) :
    (c.pushKey b).stagedKey = c.stagedKey ++ [b] := by
  have hold : (List.range c.keyLen.toNat).map (c.pushKey b).keyByte = c.stagedKey :=
    List.map_congr_left fun i hi => by rw [Core.keyByte_pushKey, if_neg (List.mem_range.1 hi).ne]
  have hnew : (c.pushKey b).keyByte c.keyLen.toNat = b := by rw [Core.keyByte_pushKey, if_pos rfl]
  rw [Core.stagedKey, Core.toNat_keyLen_pushKey hlen, List.range_succ, List.map_append, hold, List.map_singleton, hnew]

/-- Settles O17: the new core is the model's PUSH_KEY, whose bytes, KEYLEN and staged key the lemmas above give. -/
theorem pushKeyAppendsAByte : Obligations.PushKeyAppendsAByte := by
  refine ⟨fun b hb => decode_pushKey hb, fun s b hlegal hb =>
    ⟨fun hlt => ?_, fun hfull => (Raises.keyFull b hfull).exec_eq⟩⟩
  obtain ⟨-, -, -, hbMax⟩ := s.params.legal_iff.1 hlegal
  have hlen : s.core.keyLen.toNat < 65535 := by omega
  have hbyte := Core.keyByte_pushKey s.core (BitVec.ofNat 8 b)
  refine ⟨(s.core.pushKey (BitVec.ofNat 8 b)).keyBuf, s.core.keyLen + 1, (Effect.pushKey b hlt.ne).exec_eq,
    Core.toNat_keyLen_pushKey hlen (BitVec.ofNat 8 b), ?_, fun n hn => (hbyte n).trans (if_neg hn),
    Core.stagedKey_pushKey hlen _⟩
  exact (congrArg BitVec.toNat ((hbyte _).trans (if_pos rfl))).trans (Nat.mod_eq_of_lt (by omega))

/-- Settles O18: the table installed covers exactly the indices below `t`. -/
theorem expandKeyInstallsTheSchedule : Obligations.ExpandKeyInstallsTheSchedule := by
  refine ⟨rfl, fun s => ⟨fun hempty => ?_, fun hempty => (Raises.emptyKey hempty).exec_eq⟩⟩
  have hword := Core.tableWord_installKey s.core (expandedKey s) s.core.rounds
  refine ⟨(s.core.installKey (expandedKey s) s.core.rounds).table, (Effect.expandKey hempty).exec_eq, fun i hi => ?_,
    fun i hi => (hword i).trans ?_⟩
  · have hlisted : i < (expandedKey s).length := hi.trans_eq (expandedKey_length s).symm
    have hword := hword i
    rw [List.getElem?_eq_getElem hlisted, Option.getD_some] at hword
    exact (List.getElem?_eq_getElem hlisted).trans (congrArg some hword.symm)
  · rw [List.getElem?_eq_none ((expandedKey_length s).trans_le hi), Option.getD_none]

/-- Settles O28: the length of Pack is R153's count, and a legal W has at least two bytes. -/
theorem keyWordCountIsInRange : Obligations.KeyWordCountIsInRange := by
  intro s hlegal hlen
  obtain ⟨hwidth, -, -, -⟩ := s.params.legal_iff.1 hlegal
  have hu : 0 < s.params.bytesPerWord := Nat.div_pos (by omega) (by decide)
  have hcount : (pack s.params.width s.core.stagedKey).length =
      keyWordCount s.params.bytesPerWord s.core.keyLen.toNat := by
    rw [pack_length, Core.stagedKey_length, Params.bytesPerWord]
  rw [hcount]
  refine ⟨fun hne => ?_, keyWordCount_pos hu _, keyWordCount_le_cMax hlen, rfl,
    fun hreject hzero => (Raises.emptyKey ⟨hzero, hreject⟩).exec_eq⟩
  exact if_neg fun hzero => hne (BitVec.eq_of_toNat_eq hzero)

end Machine

end Sys2Proof
end

section
/-! PROOFS. Encrypt as R171's loop, the command ENCRYPT (41_encrypt R170 to R173), and both commands with no rounds
(42_decrypt R193). -/

namespace Sys2Proof.Machine

variable {w : Nat}

/-- R171: Encrypt runs its rounds from 1 up to `r`, after the two initial additions. -/
theorem encryptBlock_eq_foldl (S : Nat → Word w) (ab : Word w × Word w) (r : Nat) :
    encryptBlock S ab r =
      (List.range' 1 r).foldl (fun x i => encryptRound S i x) (ab.1 + S 0, ab.2 + S 1) := by
  induction r with
  | zero => rfl
  | succ r ih => rw [encryptBlock, ih, List.range'_1_concat, List.foldl_concat, Nat.add_comm 1 r]

/-- R172: the two statements of a round over the library's rotation; the second reads the A of the first. -/
theorem encryptRound_eq_rotateLeft (S : Nat → Word w) (i : Nat) (ab : Word w × Word w) :
    encryptRound S i ab =
      let A' := (ab.1 ^^^ ab.2).rotateLeft (ab.2.toNat % w) + S (2 * i)
      (A', (ab.2 ^^^ A').rotateLeft (A'.toNat % w) + S (2 * i + 1)) := by
  simp only [encryptRound, rotl_eq_rotateLeft]

/-- Settles O22: the model's recursion is a loop over its own rounds, and each round is the spec's two statements. -/
theorem encryptIsTheSpecsLoop : Obligations.EncryptIsTheSpecsLoop := by
  intro w S A B r
  simp only [encryptBlock_eq_foldl, encryptRound_eq_rotateLeft]

/-- Settles O19: a valid key is the condition of ENCRYPT's effect, and its absence that of its error. -/
theorem encryptReplacesTheBlock : Obligations.EncryptReplacesTheBlock :=
  ⟨rfl, fun _ => ⟨fun hkey => (Effect.encrypt hkey).exec_eq, fun hkey => (Raises.encryptNoKey hkey).exec_eq⟩⟩

/-- R173: Encrypt without rounds. -/
theorem encryptBlock_zero (S : Nat → Word w) (ab : Word w × Word w) :
    encryptBlock S ab 0 = (ab.1 + S 0, ab.2 + S 1) := rfl

/-- R193: Decrypt without rounds. -/
theorem decryptBlock_zero (S : Nat → Word w) (ab : Word w × Word w) :
    decryptBlock S ab 0 = (ab.1 - S 0, ab.2 - S 1) := rfl

/-- Settles O24: the effects of the two commands, at a round count of 0. -/
theorem zeroRounds : Obligations.ZeroRounds := by
  intro s hkey hrounds
  have hcount : s.core.rActive.toNat = 0 := congrArg BitVec.toNat hrounds
  have hencrypt := (Effect.encrypt hkey).exec_eq
  have hdecrypt := (Effect.decrypt hkey).exec_eq
  rw [hcount, encryptBlock_zero] at hencrypt
  rw [hcount, decryptBlock_zero] at hdecrypt
  exact ⟨hencrypt, hdecrypt⟩

end Sys2Proof.Machine
end

section
/-! PROOFS. Decrypt as R191's loop, the command DECRYPT (42_decrypt R190), and the inverse law of the two functions and of the
two commands (R192). -/

namespace Sys2Proof.Machine

variable {w : Nat}

/-! ## Decrypt -/

/-- R191: Decrypt runs its rounds from `r` down to 1, before the two final subtractions. -/
theorem decryptBlock_eq_foldl (S : Nat → Word w) (ab : Word w × Word w) (r : Nat) :
    decryptBlock S ab r =
      let x := (List.range' 1 r).reverse.foldl (fun x i => decryptRound S i x) ab
      (x.1 - S 0, x.2 - S 1) := by
  induction r generalizing ab with
  | zero => rfl
  | succ r ih => rw [decryptBlock, ih, List.range'_1_concat, List.reverse_concat, List.foldl_cons, Nat.add_comm 1 r]

/-- R191: the two statements of a round over the library's rotation; the second reads the B of the first. -/
theorem decryptRound_eq_rotateRight (S : Nat → Word w) (i : Nat) (ab : Word w × Word w) :
    decryptRound S i ab =
      let B' := (ab.2 - S (2 * i + 1)).rotateRight (ab.1.toNat % w) ^^^ ab.1
      ((ab.1 - S (2 * i)).rotateRight (B'.toNat % w) ^^^ B', B') := by
  simp only [decryptRound, rotr_eq_rotateRight]

/-- Settles O23: the model's recursion is a loop over its own rounds, and each round is the spec's two statements. -/
theorem decryptIsTheSpecsLoop : Obligations.DecryptIsTheSpecsLoop := by
  intro w S A B r
  simp only [decryptBlock_eq_foldl, decryptRound_eq_rotateRight]

/-- Settles O20: a valid key is the condition of DECRYPT's effect, and its absence that of its error. -/
theorem decryptReplacesTheBlock : Obligations.DecryptReplacesTheBlock :=
  ⟨rfl, fun _ => ⟨fun hkey => (Effect.decrypt hkey).exec_eq, fun hkey => (Raises.decryptNoKey hkey).exec_eq⟩⟩

/-! ## The inverse law of the functions -/

/-- Each statement of a round of Decrypt undoes one of Encrypt's: the subtraction, the rotation by the same amount, and the
exclusive or. -/
@[simp] theorem decryptRound_encryptRound (S : Nat → Word w) (i : Nat) (ab : Word w × Word w) :
    decryptRound S i (encryptRound S i ab) = ab := by
  simp only [encryptRound, decryptRound, add_sub_cancel_right, rotr_rotl, xor_cancel_right]

@[simp] theorem encryptRound_decryptRound (S : Nat → Word w) (i : Nat) (ab : Word w × Word w) :
    encryptRound S i (decryptRound S i ab) = ab := by
  simp only [encryptRound, decryptRound, sub_add_cancel, rotl_rotr, xor_cancel_right]

/-- Decrypt's first round meets Encrypt's last, and so on inwards. -/
theorem decryptBlock_encryptBlock (S : Nat → Word w) (ab : Word w × Word w) (r : Nat) :
    decryptBlock S (encryptBlock S ab r) r = ab := by
  induction r with
  | zero => simp only [encryptBlock, decryptBlock, add_sub_cancel_right]
  | succ r ih => rw [encryptBlock, decryptBlock, decryptRound_encryptRound, ih]

theorem encryptBlock_decryptBlock (S : Nat → Word w) (ab : Word w × Word w) (r : Nat) :
    encryptBlock S (decryptBlock S ab r) r = ab := by
  induction r generalizing ab with
  | zero => simp only [encryptBlock, decryptBlock, sub_add_cancel]
  | succ r ih => rw [decryptBlock, encryptBlock, ih, encryptRound_decryptRound]

/-! ## The inverse law of the commands -/

/-- The two cores give ENCRYPT and DECRYPT the same block and the same valid or missing key. -/
structure SameCipherInput (c d : Core w) : Prop where
  keyValid : c.keyValid = d.keyValid
  tableWord : c.tableWord = d.tableWord
  rActive : c.rActive = d.rActive
  block : c.block = d.block

theorem SameCipherInput.trans {c d f : Core w} (h : SameCipherInput c d) (h' : SameCipherInput d f) : SameCipherInput c f :=
  ⟨h.keyValid.trans h'.keyValid, h.tableWord.trans h'.tableWord, h.rActive.trans h'.rActive, h.block.trans h'.block⟩

/-- R192's commands that may stand between an ENCRYPT and the DECRYPT that undoes it. -/
def KeepsCipherInput (i : Instr) : Prop := i ≠ .expandKey ∧ i ≠ .encrypt ∧ i ≠ .decrypt

/-- Such a command completes, with or without error, and leaves block and key. -/
theorem exec_keeps_cipherInput {i : Instr} (hi : KeepsCipherInput i) (s : State) :
    ∃ c, exec i s = .next (s.setCore c) ∧ SameCipherInput c s.core := by
  obtain ⟨hexpand, hencrypt, hdecrypt⟩ := hi
  rcases exec_cases i s with ⟨c, heff, hexec⟩ | ⟨e, -, hexec⟩
  · refine ⟨_, hexec, ?_⟩
    cases heff with
    | nop | setRounds | clearKey | pushKey => exact ⟨rfl, rfl, rfl, rfl⟩
    | expandKey => exact absurd rfl hexpand
    | encrypt => exact absurd rfl hencrypt
    | decrypt => exact absurd rfl hdecrypt
  · exact ⟨_, hexec, ⟨rfl, rfl, rfl, rfl⟩⟩

/-- Such commands ahead of `rest` leave `rest` to run on a core with the same block and key. -/
theorem execAll_append_keeps_cipherInput {between : List Instr}
    (hbetween : ∀ i ∈ between, KeepsCipherInput i) (rest : List Instr) (s : State) :
    ∃ c, execAll (between ++ rest) s = execAll rest (s.setCore c) ∧ SameCipherInput c s.core := by
  induction between generalizing s with
  | nil => exact ⟨s.core, rfl, ⟨rfl, rfl, rfl, rfl⟩⟩
  | cons i is ih =>
    obtain ⟨hi, his⟩ := List.forall_mem_cons.1 hbetween
    obtain ⟨c, hexec, hc⟩ := exec_keeps_cipherInput hi s
    obtain ⟨d, hrest, hd⟩ := ih his (s.setCore c)
    exact ⟨d, by rw [List.cons_append, execAll, hexec]; exact hrest, hd.trans hc⟩

/-- The type of Encrypt and Decrypt: table, block and round count to block. -/
abbrev BlockFunction (w : Nat) := (Nat → Word w) → Word w × Word w → Nat → Word w × Word w

/-- Under a valid key the command `i` completes without error and replaces the block by `f` of it, under S and R_ACTIVE. -/
def CiphersBy (p : Params) (i : Instr) (f : BlockFunction p.width) : Prop :=
  ∀ (c : Core p.width) (e : Env), c.keyValid = true →
    exec i ⟨p, c, e⟩ = .next ⟨p, (c.putBlock (f c.tableWord c.block c.rActive.toNat)).endedWith 0, e⟩

theorem encrypt_ciphersBy (p : Params) : CiphersBy p .encrypt encryptBlock :=
  fun _ _ hkey => (Effect.encrypt hkey).exec_eq

theorem decrypt_ciphersBy (p : Params) : CiphersBy p .decrypt decryptBlock :=
  fun _ _ hkey => (Effect.decrypt hkey).exec_eq

/-- R192 for two commands whose functions undo each other one way: the block comes back, whatever commands that keep block
and key stand between. -/
theorem execAll_restores_block {p : Params} {i j : Instr} {f g : BlockFunction p.width}
    (hi : CiphersBy p i f) (hj : CiphersBy p j g) (hundo : ∀ S ab r, g S (f S ab r) r = ab)
    {between : List Instr} (hbetween : ∀ k ∈ between, KeepsCipherInput k)
    (c : Core p.width) (e : Env) (hkey : c.keyValid = true) :
    ∃ c' : Core p.width, execAll ([i] ++ between ++ [j]) ⟨p, c, e⟩ = .next ⟨p, c', e⟩ ∧
      c'.dataA = c.dataA ∧ c'.dataB = c.dataB ∧ c'.err = 0 := by
  obtain ⟨d, hmiddle, hd⟩ := execAll_append_keeps_cipherInput hbetween [j]
    ⟨p, (c.putBlock (f c.tableWord c.block c.rActive.toNat)).endedWith 0, e⟩
  have hblock : g d.tableWord d.block d.rActive.toNat = c.block := by
    rw [hd.tableWord, hd.block, hd.rActive]
    exact hundo c.tableWord c.block c.rActive.toNat
  refine ⟨(d.putBlock (g d.tableWord d.block d.rActive.toNat)).endedWith 0, ?_,
    congrArg Prod.fst hblock, congrArg Prod.snd hblock, rfl⟩
  calc execAll ([i] ++ between ++ [j]) ⟨p, c, e⟩
      = execAll (between ++ [j]) ⟨p, (c.putBlock (f c.tableWord c.block c.rActive.toNat)).endedWith 0, e⟩ := by
        rw [List.append_assoc, List.singleton_append, execAll, hi c e hkey]
    _ = execAll [j] ⟨p, d, e⟩ := hmiddle
    _ = .next ⟨p, (d.putBlock (g d.tableWord d.block d.rActive.toNat)).endedWith 0, e⟩ := by
        rw [execAll, hj d e (hd.keyValid.trans hkey)]; rfl

/-- Settles O25: the functions undo each other both ways, and so do the commands that run them. -/
theorem encryptAndDecryptAreInverse : Obligations.EncryptAndDecryptAreInverse :=
  ⟨fun _ S A B r => ⟨decryptBlock_encryptBlock S (A, B) r, encryptBlock_decryptBlock S (A, B) r⟩,
    fun p c e _ hkey hbetween =>
      ⟨execAll_restores_block (encrypt_ciphersBy p) (decrypt_ciphersBy p) decryptBlock_encryptBlock hbetween c e hkey,
        execAll_restores_block (decrypt_ciphersBy p) (encrypt_ciphersBy p) encryptBlock_decryptBlock hbetween c e hkey⟩⟩

end Sys2Proof.Machine
end

section
/-! PROOFS. Which words are illegal (30_encoding R103, R104, R107), how the core's turn completes a word, and NOP
(43_control R210, R213, R215). -/

namespace Sys2Proof

variable {v : Reg64} {imm : BitVec 16}

/-! ## Illegal words, by their fields -/

theorem decodePlain_illegal_iff {i : Instr} : (∃ why, decodePlain imm i = .illegal why) ↔ imm ≠ 0 := by
  unfold decodePlain
  split <;> simp_all

/-- R103, R107: the opcodes with no command, those that take no operand, and PUSH_KEY, which takes a byte. -/
theorem decodeOpcode_illegal_iff {opc : Nat} : (∃ why, decodeOpcode opc imm = .illegal why) ↔
    7 ≤ opc ∨ (imm ≠ 0 ∧ opc ∈ [0, 2, 4, 5, 6]) ∨ (immHigh imm ≠ 0 ∧ opc = 3) := by
  match opc with
  | 0 | 2 | 4 | 5 | 6 => exact decodePlain_illegal_iff.trans (by simp)
  | 1 => simp [decodeOpcode]
  | 3 =>
    rw [decodeOpcode]
    split <;> simp_all
  | n + 7 => simp [decodeOpcode]

theorem decode_illegal_iff_fields : (∃ why, decode v = .illegal why) ↔
    (rsv0Field v ≠ 0 ∨ rsv1Field v ≠ 0) ∨ ∃ why, decodeOpcode (opcField v).toNat (imm16Field v) = .illegal why := by
  rw [decode]
  split
  next hbad => exact iff_of_true ⟨_, rfl⟩ (.inl hbad)
  next hgood => rw [or_iff_right hgood]

/-- R102: the fields the decoder tests, as numbers. -/
theorem fields_toNat (v : Reg64) :
    (opcField v).toNat = v.toNat % 2 ^ 8 ∧ (rsv0Field v).toNat = v.toNat / 2 ^ 8 % 2 ^ 8 ∧
    (imm16Field v).toNat = v.toNat / 2 ^ 16 % 2 ^ 16 ∧ (immHigh (imm16Field v)).toNat = v.toNat / 2 ^ 24 % 2 ^ 8 ∧
    (rsv1Field v).toNat = v.toNat / 2 ^ 32 := by
  simp only [opcField, rsv0Field, imm16Field, immHigh, rsv1Field, BitVec.extractLsb'_toNat]
  omega

/-- R215: which words are illegal, by the word's number. -/
theorem decode_illegal_iff : (∃ why, decode v = .illegal why) ↔
    (7 ≤ v.toNat % 2 ^ 8 ∨ v.toNat / 2 ^ 8 % 2 ^ 8 ≠ 0 ∨ v.toNat / 2 ^ 32 ≠ 0 ∨
      (v.toNat / 2 ^ 16 % 2 ^ 16 ≠ 0 ∧ v.toNat % 2 ^ 8 ∈ [0, 2, 4, 5, 6]) ∨
      (v.toNat / 2 ^ 24 % 2 ^ 8 ≠ 0 ∧ v.toNat % 2 ^ 8 = 3)) := by
  have hzero {n : Nat} (x : BitVec n) : x ≠ 0 ↔ x.toNat ≠ 0 := (BitVec.toNat_inj (y := 0)).not.symm
  obtain ⟨hopc, hrsv0, himm, hhigh, hrsv1⟩ := fields_toNat v
  rw [decode_illegal_iff_fields, decodeOpcode_illegal_iff]
  simp only [hzero, hopc, hrsv0, himm, hhigh, hrsv1]
  tauto

namespace Machine

variable {s : State}

/-! ## The core's turn -/

/-- R213: completion is not enabled with BUSY = 0. -/
theorem coreTurn_idle (hbusy : s.core.busy = false) : coreTurn s = .next s := by
  simp [coreTurn, hbusy]

/-- R213: with BUSY = 1 the core's turn completes the word in flight. -/
theorem coreTurn_busy (hbusy : s.core.busy = true) (hword : s.core.pending = some v) :
    coreTurn s = completeWord v s := by
  simp [coreTurn, hbusy, hword]

theorem completeWord_of_cmd {i : Instr} (hdec : decode v = .cmd i) : completeWord v s = exec i s := by
  rw [completeWord, hdec]

theorem completeWord_of_illegal {why : Illegal} (hdec : decode v = .illegal why) :
    completeWord v s = .next (s.setCore (s.core.endedWith 1)) := by
  rw [completeWord, hdec]
  rfl

/-- R213: every word's completion ends in `complete(code)`. -/
theorem completeWord_completes (v : Reg64) (s : State) : ∃ c code,
    Completes s (decode v) c code ∧ completeWord v s = .next (s.setCore (c.complete code)) := by
  cases hdec : decode v with
  | illegal why => exact ⟨_, _, .illegal why, completeWord_of_illegal hdec⟩
  | cmd i =>
    rw [completeWord_of_cmd hdec]
    rcases exec_cases i s with ⟨c, heff, hexec⟩ | ⟨code, herr, hexec⟩
    · exact ⟨c, _, .effect heff, hexec⟩
    · exact ⟨_, code, .error herr, hexec⟩

/-- Settles O5: the decoder's tests as numbers, and the completion raises ERR_ILLEGAL and does no more. -/
theorem illegalWordsCompleteWithErrIllegal : Obligations.IllegalWordsCompleteWithErrIllegal :=
  ⟨fun _ => decode_illegal_iff, fun _ _ _ hbusy hword hdec =>
    (coreTurn_busy hbusy hword).trans (completeWord_of_illegal hdec)⟩

/-- Settles O7: the core's turn is the word's completion, which always ends in `complete(code)`. -/
theorem completionFollowsTheLifeCycle : Obligations.CompletionFollowsTheLifeCycle := by
  refine fun s => ⟨coreTurn_idle, fun v hbusy hword => ?_⟩
  rw [coreTurn_busy hbusy hword]
  obtain ⟨c, code, -, hends⟩ := completeWord_completes v s
  exact ⟨fun _ => completeWord_of_cmd, fun _ => completeWord_of_illegal, _, hends, code.bits_le, rfl, rfl, rfl⟩

/-- Settles O14: a word with OPC = 0 that is not zero has a bit of RSV0, IMM16 or RSV1 set, and each makes it illegal. -/
theorem nopOnlyCompletes : Obligations.NopOnlyCompletes := by
  refine ⟨fun _ => Effect.nop.exec_eq, rfl, fun _ hbusy => writeRegister_cmd_idle 0 hbusy, fun v hopc hne => ?_⟩
  have hword : v.toNat ≠ 0 := fun hzero => hne (BitVec.eq_of_toNat_eq hzero)
  rw [decode_illegal_iff, hopc]
  simp only [List.mem_cons, true_or, and_true]
  omega

end Machine

end Sys2Proof
end

section
/-! PROOFS. The command life cycle step by step: acceptance, overrun, completion, and that a command in flight ends
(43_control R211 to R214). -/

namespace Sys2Proof.Machine

variable {s : State} {w : Nat}

/-! ## One step -/

/-- R9: under a legal configuration the agent whose turn it is moves. -/
theorem step_eq_takeTurn (hlegal : s.params.legal = true) : step s = takeTurn (nextTurn s) s.afterTurn := if_pos hlegal

theorem step_eq_coreTurn (hlegal : s.params.legal = true) (hturn : nextTurn s = .core) :
    step s = coreTurn s.afterTurn := by
  rw [step_eq_takeTurn hlegal, hturn, takeTurn]

/-- R78: the host's RegWrite is one step, and does to the core what the port does. -/
theorem step_eq_writeRegister {idx : Nat} {v : Reg64} {rest : List HostOp} (hlegal : s.params.legal = true)
    (hturn : nextTurn s = .host) (hops : s.env.host = .write idx v :: rest) :
    step s = .next ((s.setCore (writeRegister s.core idx v)).setEnv
      { s.env with host := rest, turns := s.env.turns.tail }) :=
  step_eq_hostOp hlegal hturn hops

/-- R212: the registers whose writes BUSY = 1 locks. -/
theorem writeRegister_overrun {c : Core w} {idx : Nat} (v : Reg64) (hidx : idx = 4 ∨ idx = 6 ∨ idx = 7)
    (hbusy : c.busy = true) : writeRegister c idx v = c.overrun := by
  rcases hidx with rfl | rfl | rfl <;> exact if_pos hbusy

/-- Settles O6: the core's turn completes the word in flight, which is the same after the schedule's turn is used. -/
theorem stepRunsTheDecodedCommand : Obligations.StepRunsTheDecodedCommand := by
  intro s v i hlegal hturn hbusy hword hdec
  rw [step_eq_coreTurn hlegal hturn, coreTurn_busy (s := s.afterTurn) hbusy hword, completeWord_of_cmd hdec]

/-- Settles O8: the host's turn is the write of CMD, which an idle core accepts. -/
theorem commandAcceptance : Obligations.CommandAcceptance := by
  intro s v rest hlegal hturn hops hbusy
  rw [step_eq_writeRegister hlegal hturn hops, writeRegister_cmd_idle v hbusy]
  rfl

/-- Settles O9: the host's turn is the write, which a busy core answers with OVR. -/
theorem overrunDropsTheWrite : Obligations.OverrunDropsTheWrite := by
  intro s idx v rest hlegal hturn hops hidx hbusy
  rw [step_eq_writeRegister hlegal hturn hops, writeRegister_overrun v hidx hbusy]
  rfl

/-! ## No agent is stuck -/

/-- The agent's move answers a next state of the same configuration; it leaves the schedule and lists no new host operation. -/
def Moves (s : State) (r : Result) : Prop :=
  ∃ c e, r = .next ((s.setCore c).setEnv e) ∧ e.turns = s.env.turns ∧ e.host ⊆ s.env.host

/-- R75: a whole-register operation, or a wait, is never refused; only a wait can stay in the list. -/
theorem hostOp_moves {op : HostOp} {rest : List HostOp} (hops : s.env.host = op :: rest)
    (hwhole : op.whole s.params = true) : Moves s (hostOp (s.setEnv { s.env with host := rest }) op) := by
  have hrest : rest ⊆ s.env.host := hops ▸ List.subset_cons_self op rest
  have hread (idx : Nat) : Moves s (hostOp (s.setEnv { s.env with host := rest }) (.read idx)) :=
    ⟨_, _, rfl, rfl, hrest⟩
  have hwrite (idx : Nat) (v : Reg64) : Moves s (hostOp (s.setEnv { s.env with host := rest }) (.write idx v)) :=
    ⟨_, _, rfl, rfl, hrest⟩
  have hkeep {ops : List HostOp} (h : ops = rest ∨ ops = op :: rest) : ops ⊆ s.env.host := by
    rcases h with rfl | rfl
    · exact hrest
    · exact hops ▸ List.Subset.refl _
  cases op with
  | read idx => exact hread idx
  | write idx v => exact hwrite idx v
  | wait => exact ⟨_, _, rfl, rfl, hkeep (ite_eq_or_eq ..).symm⟩
  | waitIrq => exact ⟨s.core, _, rfl, rfl, hkeep (ite_eq_or_eq ..)⟩
  | busRead addr bytes =>
    obtain ⟨idx, hidx⟩ := Option.isSome_iff_exists.1 hwhole
    rw [(hostOp_bus_of_some hidx _ 0).1]
    exact hread idx
  | busWrite addr bytes v =>
    obtain ⟨idx, hidx⟩ := Option.isSome_iff_exists.1 hwhole
    rw [(hostOp_bus_of_some hidx _ v).2]
    exact hwrite idx v

theorem hostTurn_moves (hwhole : ∀ op ∈ s.env.host, op.whole s.params = true) : Moves s (hostTurn s) := by
  unfold hostTurn
  split
  next => exact ⟨_, _, rfl, rfl, List.Subset.refl _⟩
  next op rest hops => exact hostOp_moves hops (hwhole op (hops ▸ List.mem_cons_self))

theorem coreTurn_moves (s : State) : Moves s (coreTurn s) := by
  unfold coreTurn
  split
  next v _ _ =>
    obtain ⟨c, code, -, hends⟩ := completeWord_completes v s
    exact ⟨c.complete code, s.env, hends, rfl, List.Subset.refl _⟩
  next => exact ⟨_, _, rfl, rfl, List.Subset.refl _⟩

theorem takeTurn_moves (hwhole : ∀ op ∈ s.env.host, op.whole s.params = true) (turn : Turn) :
    Moves s (takeTurn turn s) := by
  cases turn with
  | host => exact hostTurn_moves hwhole
  | core => exact coreTurn_moves s
  | reset => exact ⟨_, _, rfl, rfl, List.Subset.refl _⟩

/-! ## A command in flight ends -/

/-- The premises of `Obligations.CommandsEnd`, as an invariant of the run. -/
structure Unstuck (s : State) : Prop where
  legal : s.params.legal = true
  busy_iff : s.core.busy = s.core.pending.isSome
  whole : ∀ op ∈ s.env.host, op.whole s.params = true

theorem Unstuck.step (h : Unstuck s) : ∃ t, step s = .next t ∧ Unstuck t ∧ t.env.turns = s.env.turns.tail := by
  obtain ⟨c, e, hmove, hturns, hhost⟩ := takeTurn_moves (s := s.afterTurn) h.whole (nextTurn s)
  have hstep := (step_eq_takeTurn h.legal).trans hmove
  obtain ⟨hbusy, -⟩ := busyChangesOnlyByTheLifeCycle _ _ h.busy_iff hstep
  exact ⟨_, hstep, ⟨h.legal, hbusy, fun op hop => h.whole op (hhost hop)⟩, hturns⟩

theorem run_succ {t : State} (h : step s = .next t) (k : Nat) :
    Host.Core.run core (k + 1) s = Host.Core.run core k t := by
  have hstep : core.step s = .next t := h
  simp only [Host.Core.run, hstep]

/-- Log 3: with the schedule used up, BUSY = 1 makes the coming step the completion. -/
theorem Unstuck.step_ends (h : Unstuck s) (hturns : s.env.turns = []) (hbusy : s.core.busy = true) :
    ∃ t, Machine.step s = .next t ∧ t.core.busy = false := by
  obtain ⟨v, hword⟩ := Option.isSome_iff_exists.1 (h.busy_iff.symm.trans hbusy)
  have hturn : nextTurn s = .core := by simp [nextTurn, hturns, hbusy]
  obtain ⟨c, code, -, hends⟩ := completeWord_completes v s.afterTurn
  exact ⟨_, (step_eq_coreTurn h.legal hturn).trans ((coreTurn_busy (s := s.afterTurn) hbusy hword).trans hends), rfl⟩

/-- R214 by induction on the schedule: a listed turn is used up by one step, and past the list the core completes. -/
theorem Unstuck.ends (turns : List Turn) : ∀ {s : State}, Unstuck s → s.env.turns = turns →
    ∃ k t, k ≤ turns.length + 1 ∧ Host.Core.run core k s = .next t ∧ t.core.busy = false := by
  induction turns with
  | nil =>
    intro s h hturns
    cases hbusy : s.core.busy with
    | false => exact ⟨0, s, Nat.zero_le _, rfl, hbusy⟩
    | true =>
      obtain ⟨t, hstep, hidle⟩ := h.step_ends hturns hbusy
      exact ⟨1, t, Nat.le_refl _, run_succ hstep 0, hidle⟩
  | cons turn rest ih =>
    intro s h hturns
    obtain ⟨t, hstep, ht, htail⟩ := h.step
    obtain ⟨k, u, hk, hrun, hidle⟩ := ih ht (htail.trans (by rw [hturns, List.tail_cons]))
    exact ⟨k + 1, u, Nat.succ_le_succ hk, (run_succ hstep k).trans hrun, hidle⟩

/-- Settles O12: the premises are an invariant of the run, and each step uses one listed turn. -/
theorem commandsEnd : Obligations.CommandsEnd :=
  fun _ hlegal hbusy hwhole => Unstuck.ends _ ⟨hlegal, hbusy, hwhole⟩ rfl

end Sys2Proof.Machine
end

section
/-! PROOFS. Errors: which code a completion leaves, that an error changes nothing else, that no step traps, the two orders of
a race, and that no register shows the key (60_exceptions R220 to R226, R232, R236). -/

namespace Sys2Proof.Machine

variable {s t : State} {v : Reg64} {d : Decoded} {c : Core s.params.width} {code e : ErrCode}

/-! ## Completions -/

theorem exec_completes (i : Instr) (s : State) : ∃ c code,
    Completes s (.cmd i) c code ∧ exec i s = .next (s.setCore (c.complete code)) := by
  rcases exec_cases i s with ⟨c, heff, hexec⟩ | ⟨code, herr, hexec⟩
  · exact ⟨c, _, .effect heff, hexec⟩
  · exact ⟨_, code, .error herr, hexec⟩

theorem coreTurn_completes (hbusy : s.core.busy = true) (hword : s.core.pending = some v) : ∃ c code,
    Completes s (decode v) c code ∧ coreTurn s = .next (s.setCore (c.complete code)) := by
  rw [coreTurn_busy hbusy hword]
  exact completeWord_completes v s

/-- R213 as a step: on its turn the core completes the word in flight. -/
theorem step_completes (hlegal : s.params.legal = true) (hturn : nextTurn s = .core) (hbusy : s.core.busy = true)
    (hword : s.core.pending = some v) : ∃ c code, Completes s.afterTurn (decode v) c code ∧
      step s = .next (s.afterTurn.setCore (c.complete code)) := by
  rw [step_eq_coreTurn hlegal hturn]
  exact coreTurn_completes hbusy hword

/-! ## Error codes -/

theorem ErrCode.bits_inj {a b : ErrCode} : a.bits = b.bits ↔ a = b := by
  cases a <;> cases b <;> decide

/-- R220's causes: a word that does not decode, and each command's own error. -/
inductive Fails (s : State) : Decoded → ErrCode → Prop
  | illegal (why : Illegal) : Fails s (.illegal why) .illegal
  | error {i : Instr} {e : ErrCode} (h : Raises s i e) : Fails s (.cmd i) e

/-- R223: each legal command has at most one error condition of its own. -/
theorem Raises.unique {i : Instr} {e' : ErrCode} (h : Raises s i e) (h' : Raises s i e') : e = e' := by
  cases h <;> cases h' <;> rfl

/-- A command that has its effect is not under its error's condition. -/
theorem Effect.not_raises {i : Instr} (h : Effect s i c) : ¬ Raises s i e := by
  intro herr
  cases herr with
  | range n hn => cases h with | setRounds _ hle => exact absurd hle (Nat.not_le.2 hn)
  | keyFull b hfull => cases h with | pushKey _ hroom => exact hroom hfull
  | emptyKey hempty => cases h with | expandKey hkey => exact hkey hempty
  | encryptNoKey hkey => cases h with | encrypt hvalid => exact absurd (hvalid.symm.trans hkey) (by decide)
  | decryptNoKey hkey => cases h with | decrypt hvalid => exact absurd (hvalid.symm.trans hkey) (by decide)

/-- A completion leaves an error's code exactly under the error's cause. -/
theorem Completes.code_eq_iff (h : Completes s d c code) (hne : e ≠ .noError) : code = e ↔ Fails s d e := by
  constructor
  · rintro rfl
    cases h with
    | illegal why => exact .illegal why
    | effect => exact absurd rfl hne
    | error herr => exact .error herr
  · intro hfails
    cases hfails with
    | illegal => cases h with | illegal => rfl
    | error herr =>
      cases h with
      | effect heff => exact absurd herr heff.not_raises
      | error herr' => exact herr'.unique herr

theorem fails_illegal_iff : Fails s d .illegal ↔ ∃ why, d = .illegal why := by
  constructor
  · rintro (why | herr)
    · exact ⟨why, rfl⟩
    · cases herr
  · rintro ⟨why, rfl⟩
    exact .illegal why

theorem fails_noKey_iff :
    Fails s d .noKey ↔ (d = .cmd .encrypt ∨ d = .cmd .decrypt) ∧ s.core.keyValid = false := by
  constructor
  · rintro (_ | herr)
    cases herr with
    | encryptNoKey hkey => exact ⟨.inl rfl, hkey⟩
    | decryptNoKey hkey => exact ⟨.inr rfl, hkey⟩
  · rintro ⟨rfl | rfl, hkey⟩
    · exact .error (.encryptNoKey hkey)
    · exact .error (.decryptNoKey hkey)

theorem fails_range_iff : Fails s d .range ↔ ∃ n, d = .cmd (.setRounds n) ∧ s.params.rMax < n := by
  constructor
  · rintro (_ | herr)
    cases herr with | range n hn => exact ⟨n, rfl, hn⟩
  · rintro ⟨n, rfl, hn⟩
    exact .error (.range n hn)

theorem fails_keyFull_iff :
    Fails s d .keyFull ↔ (∃ b, d = .cmd (.pushKey b)) ∧ s.core.keyLen.toNat = s.params.bMax := by
  constructor
  · rintro (_ | herr)
    cases herr with | keyFull b hfull => exact ⟨⟨b, rfl⟩, hfull⟩
  · rintro ⟨⟨b, rfl⟩, hfull⟩
    exact .error (.keyFull b hfull)

theorem fails_emptyKey_iff :
    Fails s d .emptyKey ↔ d = .cmd .expandKey ∧ s.core.keyLen = 0 ∧ s.params.emptyKey = .reject := by
  constructor
  · rintro (_ | herr)
    cases herr with | emptyKey hempty => exact ⟨rfl, hempty⟩
  · rintro ⟨rfl, hempty⟩
    exact .error (.emptyKey hempty)

/-- Settles O46: the code is one of R220's, and each error code stands exactly under its cause. -/
theorem errorCodes : Obligations.ErrorCodes := by
  intro s t v hbusy hword hturn
  obtain ⟨c, code, hends, hnext⟩ := coreTurn_completes hbusy hword
  cases hnext.symm.trans hturn
  have herr (e : ErrCode) (hne : e ≠ .noError) : code.bits = e.bits ↔ Fails s (decode v) e :=
    ErrCode.bits_inj.trans (hends.code_eq_iff hne)
  exact ⟨code.bits_le, (herr .illegal (by decide)).trans fails_illegal_iff,
    (herr .noKey (by decide)).trans fails_noKey_iff, (herr .range (by decide)).trans fails_range_iff,
    (herr .keyFull (by decide)).trans fails_keyFull_iff, (herr .emptyKey (by decide)).trans fails_emptyKey_iff⟩

/-! ## Errors are precise -/

/-- R222: a completion with an error has done nothing to the core before it ends. -/
theorem Completes.core_eq_of_error (h : Completes s d c code) (hne : code ≠ .noError) : c = s.core := by
  cases h with
  | illegal | error => rfl
  | effect => exact absurd rfl hne

/-- A RegWrite with BUSY = 1 overruns, clears flags, sets the enables, or is ignored. -/
theorem WriteEffect.frame_of_busy {w : Nat} {c c' : Core w} {idx : Nat} (h : WriteEffect c idx v c')
    (hbusy : c.busy = true) :
    c' = { c with ovr := c'.ovr, done := c'.done, doneIe := c'.doneIe, ovrIe := c'.ovrIe } := by
  cases h with
  | ignored | statusClr | irqEn | overrun => rfl
  | cmd _ hidle | dataA _ hidle | dataB _ hidle => exact absurd (hbusy.symm.trans hidle) (by decide)

/-- R222, R212: what a step of the host can change of the core in the busy window. -/
theorem StepEvent.frame_of_busy_host (h : StepEvent s c) (hbusy : s.core.busy = true) (hturn : nextTurn s = .host) :
    c = { s.core with ovr := c.ovr, done := c.done, doneIe := c.doneIe, ovrIe := c.ovrIe } := by
  cases h with
  | same => rfl
  | write idx v c hw heff => exact heff.frame_of_busy hbusy
  | completion d c code turn | reset turn => exact absurd (hturn.symm.trans turn) (by decide)

/-- Settles O47: only an effect touches anything besides the completion's own fields, and an error has none; the host
changes the core by a RegWrite only. -/
theorem errorsArePrecise : Obligations.ErrorsArePrecise := by
  constructor
  · intro s t v hbusy hword hturn hcode
    obtain ⟨c, code, hends, hnext⟩ := coreTurn_completes hbusy hword
    cases hnext.symm.trans hturn
    have hne : code ≠ .noError := fun hzero => hcode (congrArg ErrCode.bits hzero)
    rw [hends.core_eq_of_error hne]
    rfl
  · exact fun p c c' e e' hbusy hturn hstep => (step_event_mk hstep).frame_of_busy_host hbusy hturn

/-! ## No traps -/

/-- R75: the coming step performs a bus transaction that is no whole register access. -/
def BadAccessNext (s : State) : Prop :=
  nextTurn s = .host ∧ ∃ op rest, s.env.host = op :: rest ∧ op.whole s.params = false

/-- The host's side `e` is free: which accesses are whole depends on the configuration alone. -/
theorem hostOp_refused {op : HostOp} (hbad : op.whole s.params = false) (e : Env) :
    hostOp (s.setEnv e) op = .refused .notWholeRegisterAccess := by
  cases op with
  | read | write | wait | waitIrq => cases hbad
  | busRead addr bytes => exact (hostOp_bus_of_none (by simpa [HostOp.whole] using hbad) e 0).1
  | busWrite addr bytes v => exact (hostOp_bus_of_none (by simpa [HostOp.whole] using hbad) e v).2

theorem step_refused_of_badAccessNext (hlegal : s.params.legal = true) (hbad : BadAccessNext s) :
    step s = .refused .notWholeRegisterAccess := by
  obtain ⟨hturn, op, rest, hops, hop⟩ := hbad
  rw [step_eq_hostOp hlegal hturn hops]
  exact hostOp_refused hop _

theorem step_next_of_not_badAccessNext (hlegal : s.params.legal = true) (hgood : ¬ BadAccessNext s) :
    ∃ t, step s = .next t := by
  cases hturn : nextTurn s with
  | host =>
    cases hops : s.env.host with
    | nil => exact ⟨s.afterTurn, by rw [step_eq_takeTurn hlegal, hturn, takeTurn, hostTurn, State.afterTurn_host, hops]⟩
    | cons op rest =>
      have hwhole : op.whole s.params = true :=
        (Bool.not_eq_false _).mp fun hop => hgood ⟨hturn, op, rest, hops, hop⟩
      obtain ⟨c, e, hmove, -⟩ := hostOp_moves (s := s.afterTurn) hops hwhole
      exact ⟨_, (step_eq_hostOp hlegal hturn hops).trans hmove⟩
  | core =>
    obtain ⟨c, e, hmove, -⟩ := coreTurn_moves s.afterTurn
    exact ⟨_, (step_eq_coreTurn hlegal hturn).trans hmove⟩
  | reset => exact ⟨_, by rw [step_eq_takeTurn hlegal, hturn]; rfl⟩

/-- Every step, by its answer: one of the two refusals, or a next state. -/
theorem step_answer (s : State) :
    (s.params.legal = false ∧ step s = .refused .illegalConfiguration) ∨
    (s.params.legal = true ∧ BadAccessNext s ∧ step s = .refused .notWholeRegisterAccess) ∨
    (s.params.legal = true ∧ ¬ BadAccessNext s ∧ ∃ t, step s = .next t) := by
  cases hlegal : s.params.legal with
  | false => exact .inl ⟨rfl, if_neg (by simp [hlegal])⟩
  | true =>
    by_cases hbad : BadAccessNext s
    · exact .inr (.inl ⟨rfl, hbad, step_refused_of_badAccessNext hlegal hbad⟩)
    · exact .inr (.inr ⟨rfl, hbad, step_next_of_not_badAccessNext hlegal hbad⟩)

theorem step_ne_fault (s : State) (f : Fault) : step s ≠ .fault f := nomatch f

theorem step_refused_iff (s : State) (r : Refusal) : step s = .refused r ↔
    (r = .illegalConfiguration ∧ s.params.legal = false) ∨
    (r = .notWholeRegisterAccess ∧ s.params.legal = true ∧ BadAccessNext s) := by
  rcases step_answer s with ⟨hlegal, hstep⟩ | ⟨hlegal, hbad, hstep⟩ | ⟨hlegal, hgood, t, hstep⟩
  · simp [hstep, hlegal, eq_comm]
  · simp [hstep, hlegal, hbad, eq_comm]
  · simp [hstep, hlegal, hgood]

/-- R226: whatever it was given, the core is idle after a command and accepts any next word. -/
theorem exec_idle (i : Instr) (s : State) : ∃ t, exec i s = .next t ∧ t.core.busy = false ∧ t.core.pending = none ∧
    ∀ v, (writeRegister t.core 4 v).busy = true ∧ (writeRegister t.core 4 v).pending = some v := by
  obtain ⟨c, code, -, hexec⟩ := exec_completes i s
  refine ⟨_, hexec, rfl, rfl, fun v => ?_⟩
  rw [writeRegister_cmd_idle v rfl]
  exact ⟨rfl, rfl⟩

/-- Settles O48: every step answers a next state or one of the two refusals, and every command ends in `complete(code)`. -/
theorem noTraps : Obligations.NoTraps :=
  ⟨fun s => ⟨step_ne_fault s, step_refused_iff s⟩, Params.legal_iff, exec_idle⟩

/-! ## Both orders of a race -/

theorem Completes.expandKey_dataA (h : Completes s (.cmd .expandKey) c code) : c.dataA = s.core.dataA := by
  cases h with
  | error => rfl
  | effect heff => cases heff with | expandKey => rfl

theorem run_two {s₁ s₂ : State} (h₁ : step s = .next s₁) (h₂ : step s₁ = .next s₂) :
    Host.Core.run core 2 s = .next s₂ := (run_succ h₁ 1).trans (run_succ h₂ 0)

/-- Settles O13: before the completion the write overruns; after it the core is idle and takes the value. EXPAND_KEY itself
leaves DATA_A and OVR. -/
theorem bothOrdersOfARace : Obligations.BothOrdersOfARace := by
  intro p c e v x ops ts hlegal hbusy hword hdec hops
  constructor
  · have hwrite := step_eq_writeRegister (s := ⟨p, c, { e with turns := .host :: .core :: ts }⟩) hlegal rfl hops
    rw [writeRegister_overrun x (by simp) hbusy] at hwrite
    obtain ⟨c', code, hends, hcore⟩ := step_completes
      (s := ⟨p, c.overrun, { e with host := ops, turns := .core :: ts }⟩) hlegal rfl hbusy hword
    rw [hdec] at hends
    exact ⟨_, _, run_two hwrite hcore, rfl, hends.ovr_doneIe_ovrIe.1, hends.expandKey_dataA⟩
  · obtain ⟨c', code, hends, hcore⟩ := step_completes
      (s := ⟨p, c, { e with turns := .core :: .host :: ts }⟩) hlegal rfl hbusy hword
    rw [hdec] at hends
    have hwrite := step_eq_writeRegister
      (s := ⟨p, c'.complete code, { e with turns := .host :: ts }⟩) hlegal rfl hops
    rw [writeRegister_dataA_idle x rfl] at hwrite
    exact ⟨_, _, run_two hcore hwrite, rfl, hends.ovr_doneIe_ovrIe.1, rfl⟩

/-! ## Key material -/

/-- Settles O60, register by register: ID is the configuration's, the write-only and unused indices read 0, and the others
show the flags, the counts and the block. -/
theorem noRegisterReadsTheKey : Obligations.NoRegisterReadsTheKey := by
  intro p c buf tab m d idx
  match idx with
  | 0 | 1 | 2 | 3 | 4 | 5 | 6 | 7 | _ + 8 => rfl

end Sys2Proof.Machine
end

section
/-! PROOFS. Reset from any state (70_reset R260, R261), and that the configuration is fixed (R263). -/

namespace Sys2Proof.Machine

variable {s t : State}

/-! ## Reset -/

/-- R260, R261: a reset replaces the whole core, whatever it was doing, and uses the schedule's turn. -/
theorem step_eq_resetTurn (hlegal : s.params.legal = true) (hturn : nextTurn s = .reset) :
    step s = resetTurn s.afterTurn := by
  rw [step_eq_takeTurn hlegal, hturn, takeTurn]

/-- Settles O50: the core is `Core.afterReset`, whose memory draw is the environment's next; of the host's side only the turn
and the draw are used. -/
theorem resetSetsEveryValue : Obligations.ResetSetsEveryValue :=
  fun s hlegal hturn => ⟨s.env.draws, s.env.draws + 1, step_eq_resetTurn hlegal hturn⟩

/-! ## The configuration -/

theorem step_params (hstep : step s = .next t) : t.params = s.params := by
  obtain ⟨-, c, e, rfl, -⟩ := step_cases hstep
  exact State.setEnv_params (s.setCore c) e

/-- R36: ID is a function of the configuration alone. -/
@[simp] theorem readRegister_id (p : Params) (c : Core p.width) (draw : Nat) : readRegister p c draw 0 = idWord p := rfl

/-- Settles O52: no step changes the configuration, and ID reads nothing else. -/
theorem configurationIsFixed : Obligations.ConfigurationIsFixed := by
  intro s t hstep
  have hparams := step_params hstep
  exact ⟨hparams, fun d => by rw [readRegister_id, readRegister_id, hparams]⟩

end Sys2Proof.Machine
end
